-- ==== Sys2Proof/Word.lean ====
section
/-! DEFINITION. Words, pin identifiers, and the six roles with one value each (10_state.md R12). -/

namespace Sys2Proof

/-- A byte: 8 bits, bit 0 the least significant (00_scope.md section 5). -/
abbrev Byte := BitVec 8

/-- A physical or logical pin identifier; `PIN_ID_BITS = 8` (00_scope.md R7, D16). -/
abbrev PinId := BitVec 8

/-- The 20-bit request word (30_encoding.md R52). -/
abbrev ReqWord := BitVec 20

/-- The six logical roles, in the order of 10_state.md R12. A role also names its output line. -/
inductive Role where
  | srclk
  | srclr
  | srdat
  | en
  | rs
  | rw
deriving DecidableEq, Repr

/-- One value for each role: the line levels `LINE`, the identifiers `PHYS` and `LOGI` (10_state.md R11). -/
structure PerRole (α : Type) where
  srclk : α
  srclr : α
  srdat : α
  en : α
  rs : α
  rw : α
deriving DecidableEq, Repr, Inhabited

end Sys2Proof
end

