-- ==== Sys2Proof/Config.lean ====
section
/-! DEFINITION. The parameters of 00_scope.md R6 and R7, and the free values of the model. -/

namespace Sys2Proof

/-- The two wirings 20_memory.md R42 gives between the shift register and the LCD data bus. -/
inductive Wiring where
  | identity
  | mirror
deriving DecidableEq, Repr, Inhabited

namespace Config

/-! Values the source fixes (R6). Times are lower bounds in microseconds. -/

def tClrLowUs : Nat := 10
def tEnPreUs : Nat := 1
def tEnHighUs : Nat := 80
def tEnPostUs : Nat := 100
def tSettleUs : Nat := 2000
def nBits : Nat := 8
def rowStride : Nat := 64
def ddramMask : Nat := 0x7F
def cgramMask : Nat := 0x3F
def slotMask : Nat := 0x07
def cmdSetDdram : Nat := 0x80
def cmdClear : Byte := 0x01
def cmdHome : Byte := 0x02
def glyphRows : Nat := 8
/-- The visible size, 16 columns and 2 rows; no rule depends on it (R6). -/
def cols : Nat := 16
def rows : Nat := 2

/-! Values the spec takes (R7). PRESUMED: the RS and RW levels (log 6) and the four command values (log 7)
come from general knowledge (93_implementation_defined.md G1 to G3). -/

def rsCmd : Bool := false
def rsData : Bool := true
def rwWrite : Bool := false
def cmdSetCgram : Nat := 0x40
def cmdEntryMode : Byte := 0x06
def cmdDisplayCtrl : Byte := 0x0C
def cmdFunctionSet : Byte := 0x38
/-- `CG_SLOT_SHIFT = 0`, the document's literal text (R7, D18, 90_conflicts.md C4; log 34). -/
def cgSlotShift : Nat := 0

/-! Parameters the spec leaves OPEN (R7, 93_implementation_defined.md U15): constants without a body. `T_CLK` is
an argument of `Machine.delayLoad` (log 26). -/

/-- `LOGICAL_DEFAULT[0..5]` (R7, D15; log 5). -/
opaque logicalDefault : PerRole PinId

/-- `WIRING` (R7, D21; log 4): the value `State.reset` takes for the environment's wiring. -/
opaque wiring : Wiring

/-! Free values: nothing is known of them. The first argument is the number of the draw, a counter in State
(log 24). -/

/-- The level of a line between its `Mode` event and its idle `Set` (40_pin_configuration.md R82; log 15). -/
opaque freeLevel (draw : Nat) : Bool

/-- The shift register's stages after stray edges (40_pin_configuration.md R82; log 15). -/
opaque freeStages (draw : Nat) : BitVec 8

/-- The controller's address counter where nothing states it (logs 11, 13, 15). -/
opaque freeAddress (draw : Nat) : BitVec 7

/-- One bit, number `field`, of the controller where nothing states it (logs 11, 15). -/
opaque freeBit (draw field : Nat) : Bool

end Config

end Sys2Proof
end

