-- ==== Sys2Proof/Syntax.lean ====
section
/-! DEFINITION. The instructions: the twelve operations of 30_encoding.md R51 in their abstract form, and the seven LCD
command bytes of R62. -/

namespace Sys2Proof

/-- The eight glyph bytes of the Custom Character Descriptor, `row0` the first pixel row (45_display_operations.md R132). -/
structure Glyph where
  row0 : Byte
  row1 : Byte
  row2 : Byte
  row3 : Byte
  row4 : Byte
  row5 : Byte
  row6 : Byte
  row7 : Byte
deriving DecidableEq, Repr

/-- One constructor per row of spec/opcode_table.json. Addresses, columns, rows and slots are natural numbers and a text is
a list of bytes, as R51 gives them; `Instr.wf` says which fit the binary form (log 31). -/
inductive Instr where
  -- operations of the block (R51, R56)
  | setup (pins : PerRole PinId) (mirrored : Bool)
  | transmit (b : Byte)
  | pulseEnable
  | writeCommand (b : Byte)
  | writeData (b : Byte)
  | setDdramAddr (addr : Nat)
  | setCgramAddr (addr : Nat)
  | goto (column row : Nat)
  | initializeDisplay
  | clearDisplay
  | createCustomChar (slot : Nat) (glyph : Glyph)
  | drawStr (text : List Byte)
  -- commands of the LCD controller (R62 to R68)
  | lcdClearDisplay
  | lcdReturnHome
  | lcdEntryModeSet (i s : Bool)
  | lcdDisplayControl (d c b : Bool)
  | lcdFunctionSet (l n f : Bool)
  | lcdSetCgramAddr (addr : BitVec 6)
  | lcdSetDdramAddr (addr : BitVec 7)
deriving DecidableEq, Repr

end Sys2Proof
end

