-- ==== Sys2Proof/WellFormed.lean ====
section
/-! DEFINITION. Which instructions have an encoding: the binary request form carries 8-bit addresses, columns, rows and slots
and a 16-bit text length (30_encoding.md R53, R54, D4). -/

namespace Sys2Proof

/-- The operand fits its 8-bit field of the request word (R53). -/
def fitsByte (n : Nat) : Bool := decide (n < 2 ^ 8)

/-- The text's length fits `N = {A, B}` (R54). -/
def fitsLength (text : List Byte) : Bool := decide (text.length < 2 ^ 16)

/-- The instruction can be written in the binary form. The meanings do not ask for it (R51: the abstract form has no width
limits). -/
def Instr.wf (i : Instr) : Bool :=
  match i with
  | .setup _ _ => true
  | .transmit _ => true
  | .pulseEnable => true
  | .writeCommand _ => true
  | .writeData _ => true
  | .setDdramAddr addr => fitsByte addr
  | .setCgramAddr addr => fitsByte addr
  | .goto column row => fitsByte column && fitsByte row
  | .initializeDisplay => true
  | .clearDisplay => true
  | .createCustomChar slot _ => fitsByte slot
  | .drawStr text => fitsLength text
  | .lcdClearDisplay => true
  | .lcdReturnHome => true
  | .lcdEntryModeSet _ _ => true
  | .lcdDisplayControl _ _ _ => true
  | .lcdFunctionSet _ _ _ => true
  | .lcdSetCgramAddr _ => true
  | .lcdSetDdramAddr _ => true

end Sys2Proof
end

