-- ==== Sys2Proof/Decode.lean ====
section
/-! DEFINITION. Decoding and encoding: the 20-bit request word with its payload (30_encoding.md R52 to R57) and the 8-bit LCD
command byte (R62 to R68), from the tables of spec/opcode_table.json. -/

namespace Sys2Proof

/-- What decoding a request word with the payload bytes presented gives. -/
inductive RequestDecoded where
  /-- The operation, and the payload bytes it did not take. -/
  | ok (i : Instr) (rest : List Byte)
  /-- `op` is 0xC, 0xD, 0xE or 0xF (R57). -/
  | reservedOperation (op : BitVec 4)
  /-- Fewer payload bytes are presented than the operation takes (R54). -/
  | payloadMissing (needed : Nat)
deriving DecidableEq, Repr

/-- What decoding a command byte gives. -/
inductive CommandDecoded where
  | ok (i : Instr)
  /-- None of the seven patterns of R62. -/
  | unknownCommand (b : Byte)
deriving DecidableEq, Repr

/-- The words of an instruction: a request with its payload, or a command byte. -/
inductive Code where
  | request (w : ReqWord) (payload : List Byte)
  | command (b : Byte)
deriving DecidableEq, Repr

/-! ### Fields -/

/-- `op`, bits [19:16] (R52). -/
def opField (w : ReqWord) : BitVec 4 := w.extractLsb' 16 4

/-- `A`, bits [15:8] (R52). -/
def fieldA (w : ReqWord) : Byte := w.extractLsb' 8 8

/-- `B`, bits [7:0] (R52). -/
def fieldB (w : ReqWord) : Byte := w.extractLsb' 0 8

/-- `N = {A, B}` of `DRAW_STR` (R53). -/
def lengthField (w : ReqWord) : Nat := (w.extractLsb' 0 16).toNat

/-- The word `op A B` (R52). -/
def requestWord (op : BitVec 4) (a b : Byte) : ReqWord := op ++ a ++ b

/-- The word of `DRAW_STR` for a text of length `n` (R53). -/
def textWord (n : Nat) : ReqWord := (0xB : BitVec 4) ++ BitVec.ofNat 16 n

/-! ### Decoding -/

/-- The first `n` bytes and the rest, or none if fewer are there. -/
def takeBytes (n : Nat) (bytes : List Byte) : Option (List Byte × List Byte) :=
  match n with
  | 0 => some ([], bytes)
  | n + 1 =>
    match bytes with
    | [] => none
    | b :: more =>
      match takeBytes n more with
      | some (taken, rest) => some (b :: taken, rest)
      | none => none

/-- How many payload bytes the request takes (R54): 6, 8, N or 0. -/
def payloadCount (w : ReqWord) : Nat :=
  match (opField w).toNat with
  | 0x0 => 6
  | 0xA => 8
  | 0xB => lengthField w
  | _ => 0

/-- The six pin identifiers of `SETUP`, role order (R53, R54). -/
def decodePins (payload : List Byte) : Option (PerRole PinId × List Byte) :=
  match payload with
  | p0 :: p1 :: p2 :: p3 :: p4 :: p5 :: rest => some (⟨p0, p1, p2, p3, p4, p5⟩, rest)
  | _ => none

/-- The eight glyph bytes of `CREATE_CUSTOM_CHAR` (R53, R54). -/
def decodeGlyph (payload : List Byte) : Option (Glyph × List Byte) :=
  match payload with
  | g0 :: g1 :: g2 :: g3 :: g4 :: g5 :: g6 :: g7 :: rest => some (⟨g0, g1, g2, g3, g4, g5, g6, g7⟩, rest)
  | _ => none

/-- Decode a request by `op` alone (R56), with the operands of R53; ignored fields are not looked at (R58). -/
def decodeRequest (w : ReqWord) (payload : List Byte) : RequestDecoded :=
  match (opField w).toNat with
  | 0x0 =>
    match decodePins payload with
    | some (pins, rest) => .ok (.setup pins ((fieldB w).getLsbD 0)) rest
    | none => .payloadMissing 6
  | 0x1 => .ok (.transmit (fieldA w)) payload
  | 0x2 => .ok .pulseEnable payload
  | 0x3 => .ok (.writeCommand (fieldA w)) payload
  | 0x4 => .ok (.writeData (fieldA w)) payload
  | 0x5 => .ok (.setDdramAddr (fieldA w).toNat) payload
  | 0x6 => .ok (.setCgramAddr (fieldA w).toNat) payload
  | 0x7 => .ok (.goto (fieldA w).toNat (fieldB w).toNat) payload
  | 0x8 => .ok .initializeDisplay payload
  | 0x9 => .ok .clearDisplay payload
  | 0xA =>
    match decodeGlyph payload with
    | some (glyph, rest) => .ok (.createCustomChar (fieldA w).toNat glyph) rest
    | none => .payloadMissing 8
  | 0xB =>
    match takeBytes (lengthField w) payload with
    | some (text, rest) => .ok (.drawStr text) rest
    | none => .payloadMissing (lengthField w)
  | _ => .reservedOperation (opField w)

/-- Decode a command byte by the masks and patterns of R62 (spec/opcode_table.json, format LCDCMD8). -/
def decodeCommand (b : Byte) : CommandDecoded :=
  if b &&& 0x80 = 0x80 then .ok (.lcdSetDdramAddr (b.extractLsb' 0 7))
  else if b &&& 0xC0 = 0x40 then .ok (.lcdSetCgramAddr (b.extractLsb' 0 6))
  else if b &&& 0xE3 = 0x20 then .ok (.lcdFunctionSet (b.getLsbD 4) (b.getLsbD 3) (b.getLsbD 2))
  else if b &&& 0xF8 = 0x08 then .ok (.lcdDisplayControl (b.getLsbD 2) (b.getLsbD 1) (b.getLsbD 0))
  else if b &&& 0xFC = 0x04 then .ok (.lcdEntryModeSet (b.getLsbD 1) (b.getLsbD 0))
  else if b = 0x02 then .ok .lcdReturnHome
  else if b = 0x01 then .ok .lcdClearDisplay
  else .unknownCommand b

/-- The instruction a code stands for, with the payload bytes left over. -/
def decode (c : Code) : Option (Instr × List Byte) :=
  match c with
  | .request w payload =>
    match decodeRequest w payload with
    | .ok i rest => some (i, rest)
    | .reservedOperation _ => none
    | .payloadMissing _ => none
  | .command b =>
    match decodeCommand b with
    | .ok i => some (i, [])
    | .unknownCommand _ => none

/-- The host's reading of a table row: 8 bits are an LCD command byte (LCDCMD8), more are a request word (REQ20) whose
payload bytes are all 0 (log 23). -/
def decodeTableWord (nbits w : Nat) : Option Instr :=
  if nbits ≤ 8 then
    if w < 2 ^ 8 then (decode (.command (BitVec.ofNat 8 w))).map Prod.fst else none
  else if w < 2 ^ 20 then
    (decode (.request (BitVec.ofNat 20 w) (List.replicate (payloadCount (BitVec.ofNat 20 w)) 0))).map Prod.fst
  else none

/-! ### Encoding -/

/-- The payload bytes of `SETUP` (R53). -/
def pinBytes (p : PerRole PinId) : List Byte := [p.srclk, p.srclr, p.srdat, p.en, p.rs, p.rw]

/-- The glyph bytes in the order they are sent (R53). -/
def glyphBytes (g : Glyph) : List Byte := [g.row0, g.row1, g.row2, g.row3, g.row4, g.row5, g.row6, g.row7]

/-- The words of a well-formed instruction, ignored bits 0 (R53, R56, R62). -/
def encode (i : Instr) : Code :=
  match i with
  | .setup pins mirrored => .request (requestWord 0x0 0 (if mirrored then 1 else 0)) (pinBytes pins)
  | .transmit b => .request (requestWord 0x1 b 0) []
  | .pulseEnable => .request (requestWord 0x2 0 0) []
  | .writeCommand b => .request (requestWord 0x3 b 0) []
  | .writeData b => .request (requestWord 0x4 b 0) []
  | .setDdramAddr addr => .request (requestWord 0x5 (BitVec.ofNat 8 addr) 0) []
  | .setCgramAddr addr => .request (requestWord 0x6 (BitVec.ofNat 8 addr) 0) []
  | .goto column row => .request (requestWord 0x7 (BitVec.ofNat 8 column) (BitVec.ofNat 8 row)) []
  | .initializeDisplay => .request (requestWord 0x8 0 0) []
  | .clearDisplay => .request (requestWord 0x9 0 0) []
  | .createCustomChar slot glyph => .request (requestWord 0xA (BitVec.ofNat 8 slot) 0) (glyphBytes glyph)
  | .drawStr text => .request (textWord text.length) text
  | .lcdClearDisplay => .command 0x01
  | .lcdReturnHome => .command 0x02
  | .lcdEntryModeSet i s => .command ((1 : BitVec 6) ++ BitVec.ofBool i ++ BitVec.ofBool s)
  | .lcdDisplayControl d c b => .command ((1 : BitVec 5) ++ BitVec.ofBool d ++ BitVec.ofBool c ++ BitVec.ofBool b)
  | .lcdFunctionSet l n f =>
    .command ((1 : BitVec 3) ++ BitVec.ofBool l ++ BitVec.ofBool n ++ BitVec.ofBool f ++ (0 : BitVec 2))
  | .lcdSetCgramAddr addr => .command ((1 : BitVec 2) ++ addr)
  | .lcdSetDdramAddr addr => .command ((1 : BitVec 1) ++ addr)

end Sys2Proof
end

