-- ==== Sys2Proof/Machine/Operands.lean ====
section
/-! DEFINITION. Operand assembly (30_encoding.md R55): the mirror transform, the address arithmetic and the command bytes. -/

namespace Sys2Proof.Machine

/-- The mirror transform, the shift-and-mask form of 43_command_data_dispatch.md R112: it swaps bits 0 and 7, 1 and 5, 2 and
4, 3 and 6. -/
def mirror (b : Byte) : Byte :=
  ((b &&& 0x01) <<< 7) ||| ((b &&& 0x80) >>> 7) ||| ((b &&& 0x02) <<< 4) ||| ((b &&& 0x20) >>> 4) |||
    ((b &&& 0x04) <<< 2) ||| ((b &&& 0x10) >>> 2) ||| ((b &&& 0x08) <<< 3) ||| ((b &&& 0x40) >>> 3)

/-- `m(b)`: the byte handed to `TRANSMIT` (R113). -/
def mirrorIf (mirrored : Bool) (b : Byte) : Byte := if mirrored then mirror b else b

/-- The set-DDRAM-address byte `0x80 | (addr & 0x7F)` (30_encoding.md R66). -/
def ddramCommand (addr : Nat) : Byte := BitVec.ofNat 8 (Config.cmdSetDdram ||| (addr &&& Config.ddramMask))

/-- The set-CGRAM-address byte `0x40 | (addr & 0x3F)` (R67). -/
def cgramCommand (addr : Nat) : Byte := BitVec.ofNat 8 (Config.cmdSetCgram ||| (addr &&& Config.cgramMask))

/-- The DDRAM address of a cursor position, before masking (44_addressing_layer.md R122). -/
def gotoAddress (column row : Nat) : Nat := row * Config.rowStride + column

/-- The CGRAM address of a glyph slot (45_display_operations.md R132, R137). -/
def slotAddress (slot : Nat) : Nat := (slot &&& Config.slotMask) <<< Config.cgSlotShift

/-- The parallel output named by significance, `Q[i] = s[7-i]` (20_memory.md R41). -/
def parallelOut (stages : BitVec 8) : Byte := stages.reverse

/-- The fixed permutation between the register's outputs and the LCD's inputs (20_memory.md R42). -/
def wired (wiring : Wiring) (q : Byte) : Byte :=
  match wiring with
  | .identity => q
  | .mirror => mirror q

/-- The LCD data bus `DB = WIRING(Q)` (R42). -/
def dataBus (wiring : Wiring) (stages : BitVec 8) : Byte := wired wiring (parallelOut stages)

end Sys2Proof.Machine
end

