-- ==== Sys2Proof/Machine/Event.lean ====
section
/-! DEFINITION. The event alphabet (00_scope.md R8) and the entries of the sequencer (10_state.md R20). -/

namespace Sys2Proof.Machine

/-- An event of the trace (R8). -/
inductive Event where
  /-- `Set(L, v)`: line `L` takes level `v`. -/
  | set (line : Role) (level : Bool)
  /-- `Wait(n)`: at least `n` microseconds pass. -/
  | wait (us : Nat)
  /-- `Mux(p, role)`: the platform is asked to route pin `p` to the role. -/
  | mux (pin : PinId) (role : Role)
  /-- `Mode(g, OUTPUT)`: the platform is asked to make logical pin `g` an output. -/
  | mode (pin : PinId)
deriving DecidableEq, Repr

/-- What else happens in the step that emits an event. -/
inductive Effect where
  /-- Nothing: the receivers react to the lines (20_memory.md R40, R43). -/
  | plain
  /-- `SCRATCH <- b` before the event (41_shift_register_transport.md R94; log 17). -/
  | stage (b : Byte)
  /-- The event makes this line an output at an unspecified level (40_pin_configuration.md R82; log 15). -/
  | modeOutput (line : Role)
  /-- The event gives a line its idle level during `SETUP`; the receivers may see stray edges (R82; log 15). -/
  | idleLevel
  /-- `INITIALIZE_DISPLAY` begins: from here on the controller's state is what its transfers make of it
  (70_reset_and_hazards.md R180; log 36). The receivers react as usual. -/
  | initBegins
  /-- As `idleLevel`, and `CONFIGURED <- 1`: the last event of `SETUP` (R80; log 18). -/
  | configure
deriving DecidableEq, Repr

/-- One element of `SEQ`: an event still to be emitted (10_state.md R20). -/
structure SeqEntry where
  event : Event
  effect : Effect
deriving DecidableEq, Repr

/-- The triple the LCD controller receives at an enable pulse (20_memory.md R43). -/
structure Transfer where
  rs : Bool
  rw : Bool
  db : Byte
deriving DecidableEq, Repr

end Sys2Proof.Machine
end

