-- ==== Sys2Proof/Machine/State.lean ====
section
/-! DEFINITION. The state (10_state.md R11, R25 to R27; 20_memory.md R40 to R44), its reset value (R28), and the reasons a step
can stop. INVENTORY.md lists every field with its rule. -/

namespace Sys2Proof.Machine

/-- Bytes by address, addresses strictly rising; an unlisted address has no value (log 29). -/
abbrev Memory := List Host.Cell

/-- The RAM the controller's address counter points into (20_memory.md R44). -/
inductive RamSelect where
  | ddram
  | cgram
deriving DecidableEq, Repr

/-- How the premise "initialised once, first" of 93_implementation_defined.md U2 stands (70_reset_and_hazards.md R172 step (2)). A
ghost of the model: the block does not track it (45_display_operations.md R135; log 36). -/
inductive InitOrder where
  /-- Since power-on the controller has executed no transfer outside `SETUP`, and no `INITIALIZE_DISPLAY` has begun. -/
  | clean
  /-- `INITIALIZE_DISPLAY` has begun once, before any other transfer. -/
  | once
  /-- A transfer came before `INITIALIZE_DISPLAY`, or a second `INITIALIZE_DISPLAY` has begun. -/
  | broken
deriving DecidableEq, Repr

/-- The LCD controller outside the block (20_memory.md R44, 10_state.md R25; log 9). -/
structure Lcd where
  /-- `AC`. -/
  ac : BitVec 7
  /-- `SEL`. -/
  sel : RamSelect
  /-- Entry mode `i`: increment (30_encoding.md R63). -/
  inc : Bool
  /-- Entry mode `s`: display shift (R63). -/
  shift : Bool
  /-- Display control `d`, `c`, `b` (R64). -/
  displayOn : Bool
  cursorOn : Bool
  blinkOn : Bool
  /-- Function set `l`, `n`, `f` (R65). -/
  bus8 : Bool
  twoLine : Bool
  font10 : Bool
  ddram : Memory
  cgram : Memory
  /-- The transfer taken at an enable pulse and not yet executed (20_memory.md R43; log 8). -/
  pending : Option Transfer
  /-- The model's own ghost: `INITIALIZE_DISPLAY` has begun since power-on and since the last `SETUP`. Until then nothing is known
  of the controller (70_reset_and_hazards.md R180, U13; log 36). -/
  initBegun : Bool
  /-- The model's own ghost (U2; log 36). -/
  order : InitOrder
deriving DecidableEq, Repr

/-- Everything the spec gives the machine. -/
structure State where
  /-- `LINE`, the six output latches (10_state.md R12). -/
  line : PerRole Bool
  /-- `PHYS` (R13). -/
  phys : PerRole PinId
  /-- `LOGI` (R14). -/
  logi : PerRole PinId
  /-- `SCRATCH` (R15). -/
  scratch : Byte
  /-- `MIRRORED` (R16). -/
  mirrored : Bool
  /-- `CONFIGURED` (R17). -/
  configured : Bool
  /-- `BUSY` (R18). -/
  busy : Bool
  /-- `SEQ` (R20). -/
  seq : List SeqEntry
  /-- The operand latches: the operation in progress (R27; log 32). -/
  oper : Option Instr
  /-- Request words the host presents, the first at the port (R26, 60_exceptions.md R158; log 23). -/
  requests : List ReqWord
  /-- Payload bytes the host presents (R26, 30_encoding.md R54; log 23). -/
  payload : List Byte
  /-- The shift register: bit `k` is stage `s[k]` (20_memory.md R40). -/
  stages : BitVec 8
  /-- `WIRING`, a parameter of the environment; no step changes it (20_memory.md R42; log 4). -/
  wiring : Wiring
  /-- The LCD controller (20_memory.md R44). -/
  lcd : Lcd
  /-- The events emitted so far, oldest first (00_scope.md R8; log 25). -/
  trace : List Event
  /-- The bus transfers received so far, oldest first (20_memory.md R43; log 25). -/
  received : List Transfer
  /-- The model's own counters of free values drawn (log 24). -/
  levelDraws : Nat
  receiverDraws : Nat
deriving DecidableEq, Repr

/-- The reasons a step stops with a fault: none. The block raises no exception and no operation has a failure outcome
(60_exceptions.md R150). Nobody raises one; safe. -/
inductive Fault where
deriving DecidableEq, Repr

/-- The reasons a step has no meaning. -/
inductive Refusal where
  /-- Raised by an arm of `exec` whose instruction has no meaning yet. Safe. -/
  | notModelled (mnemonic : String)
  /-- Raised by an operation other than `SETUP` while `CONFIGURED = 0` (60_exceptions.md R156; log 19). Safe. -/
  | notConfigured
  /-- Raised by `exec` of an operation while `BUSY = 1`: a second requester (60_exceptions.md R157; log 20). `step` never
  raises it, since it holds the request (R158). Safe. -/
  | requestWhileBusy
  /-- Raised by an operation that strobes `EN`, started while `EN` is high (42_control_line_sequencer.md R102,
  93_implementation_defined.md U10; log 21). Safe. -/
  | enableHigh
  /-- Raised by `step` on a request word whose operation number is reserved (30_encoding.md R57; log 22). Safe. -/
  | reservedOperation (op : BitVec 4)
deriving DecidableEq, Repr

/-- The LCD controller at power-on. PRESUMED: the family's values, since the spec gives none (log 3). No
initialisation has begun (log 36). -/
def Lcd.powerOn : Lcd where
  ac := 0
  sel := .ddram
  inc := true
  shift := false
  displayOn := false
  cursorOn := false
  blinkOn := false
  bus8 := true
  twoLine := false
  font10 := false
  ddram := []
  cgram := []
  pending := none
  initBegun := false
  order := .clean

/-- The state after power-on. `CONFIGURED`, `BUSY` and `SEQ` are the spec's (10_state.md R28); every other register is
unspecified there and takes the value its log names (logs 2, 3, 4, 23, 24, 25, 29). -/
def State.reset : State where
  line := ⟨false, false, false, false, false, false⟩
  phys := ⟨0, 0, 0, 0, 0, 0⟩
  logi := ⟨0, 0, 0, 0, 0, 0⟩
  scratch := 0
  mirrored := false
  configured := false
  busy := false
  seq := []
  oper := none
  requests := []
  payload := []
  stages := 0
  wiring := Config.wiring
  lcd := Lcd.powerOn
  trace := []
  received := []
  levelDraws := 0
  receiverDraws := 0

end Sys2Proof.Machine
end

