-- ==== Sys2Proof/Machine/Ops.lean ====
section
/-! DEFINITION. The named operations over lines, receivers and memory, and the event sequences the operations are made of
(30_encoding.md R59 to R61, R73). The block takes no exception (60_exceptions.md R154), so there is no operation for it. -/

namespace Sys2Proof

/-- The value of a role. -/
def PerRole.get {α : Type} (p : PerRole α) (r : Role) : α :=
  match r with
  | .srclk => p.srclk
  | .srclr => p.srclr
  | .srdat => p.srdat
  | .en => p.en
  | .rs => p.rs
  | .rw => p.rw

/-- The same values with one role's replaced. -/
def PerRole.set {α : Type} (p : PerRole α) (r : Role) (v : α) : PerRole α :=
  match r with
  | .srclk => { p with srclk := v }
  | .srclr => { p with srclr := v }
  | .srdat => { p with srdat := v }
  | .en => { p with en := v }
  | .rs => { p with rs := v }
  | .rw => { p with rw := v }

namespace Machine

/-! ### Memory -/

/-- The byte at an address; an unlisted address has no value (log 29). -/
def Memory.read (m : Memory) (a : Nat) : Option Byte :=
  match m with
  | [] => none
  | (a', v) :: rest => if a = a' then some v else Memory.read rest a

/-- Store a byte, keeping addresses strictly rising. -/
def Memory.write (m : Memory) (a : Nat) (v : Byte) : Memory :=
  match m with
  | [] => [(a, v)]
  | (a', v') :: rest =>
    if a < a' then (a, v) :: (a', v') :: rest
    else if a = a' then (a, v) :: rest
    else (a', v') :: Memory.write rest a v

/-- Every listed address is at least `low`, and the addresses rise strictly. -/
def Memory.wfFrom (low : Nat) (m : Memory) : Bool :=
  match m with
  | [] => true
  | (a, _) :: rest => decide (low ≤ a) && Memory.wfFrom (a + 1) rest

/-- The canonical form. No entry equals what an unlisted address reads as, since that is no value. -/
def Memory.wf (m : Memory) : Bool := Memory.wfFrom 0 m

/-- `n` bytes `v` from address `a` on. -/
def Memory.run (a n : Nat) (v : Byte) : Memory :=
  match n with
  | 0 => []
  | n + 1 => (a, v) :: Memory.run (a + 1) n v

/-! ### The shift register and the LCD controller -/

/-- How the shift register reacts to a change of the lines (20_memory.md R40): `SRCLR` low clears every stage and overrides
the clock; a rising edge of `SRCLK` with `SRCLR` high shifts `SRDAT` into stage 0. PRESUMED where R40 says so (log 16). -/
def shiftRegister (before after : PerRole Bool) (stages : BitVec 8) : BitVec 8 :=
  if after.srclr = false then 0
  else if before.srclk = false ∧ after.srclk = true then (stages <<< 1) ||| (BitVec.ofBool after.srdat).setWidth 8
  else stages

/-- The bus transfer the lines and the shift register present (20_memory.md R43). -/
def presented (s : State) : Transfer := ⟨s.line.rs, s.line.rw, dataBus s.wiring s.stages⟩

/-- The controller takes the transfer presented; it executes it in a step of its own (log 8). -/
def takeTransfer (s : State) : State :=
  { s with
    lcd := { s.lcd with pending := some (presented s) }
    received := s.received ++ [presented s] }

/-- The receivers react to the lines' change from `before` to now: the shift register at once, the controller when `EN` falls
(R43; PRESUMED falling edge, log 10). -/
def receiversReact (before : PerRole Bool) (s : State) : State :=
  let s' := { s with stages := shiftRegister before s.line s.stages }
  if before.en = true ∧ s.line.en = false then takeTransfer s' else s'

/-- A controller of which nothing is known (logs 11, 15, 36): registers free, no byte of RAM with a value, no transfer to
execute. The ghosts stay. -/
def Lcd.unspecified (draw : Nat) (l : Lcd) : Lcd :=
  { l with
    ac := Config.freeAddress draw
    sel := if Config.freeBit draw 0 then .cgram else .ddram
    inc := Config.freeBit draw 1
    shift := Config.freeBit draw 2
    displayOn := Config.freeBit draw 3
    cursorOn := Config.freeBit draw 4
    blinkOn := Config.freeBit draw 5
    bus8 := Config.freeBit draw 6
    twoLine := Config.freeBit draw 7
    font10 := Config.freeBit draw 8
    ddram := []
    cgram := []
    pending := none }

/-- The controller receives something whose effect nothing states (93_implementation_defined.md U2; log 11). -/
def unspecifyController (s : State) : State :=
  { s with lcd := s.lcd.unspecified s.receiverDraws, receiverDraws := s.receiverDraws + 1 }

/-- Both receivers may have seen stray edges (40_pin_configuration.md R82, 70_reset_and_hazards.md R180; log 15). Nothing is known
of the controller until `INITIALIZE_DISPLAY`. -/
def unspecifyReceivers (s : State) : State :=
  { s with
    stages := Config.freeStages s.receiverDraws
    lcd := { s.lcd.unspecified s.receiverDraws with initBegun := false }
    receiverDraws := s.receiverDraws + 1 }

/-- A line is an output at an unspecified level (40_pin_configuration.md R82; log 15). -/
def unspecifyLevel (r : Role) (s : State) : State :=
  { s with line := s.line.set r (Config.freeLevel s.levelDraws), levelDraws := s.levelDraws + 1 }

/-! ### Commands and data of the controller (20_memory.md R44, second half; log 9) -/

/-- DDRAM has a cell at this address: 0x00 to 0x27 and 0x40 to 0x67. R44 gives these cells "as used in 2-line mode" only.
DESIGN CHOICE, log 12: the same cells exist in 1-line mode (`n = 0`), for data bytes and for the fill of clear display. -/
def ddramCell (a : Nat) : Bool := decide (a ≤ 0x27) || (decide (0x40 ≤ a) && decide (a ≤ 0x67))

/-- DDRAM filled with 0x20, in every cell of `ddramCell` (in 1-line mode a DESIGN CHOICE, log 12). -/
def blankDdram : Memory := Memory.run 0x00 40 0x20 ++ Memory.run 0x40 40 0x20

/-- Point `AC` into a RAM. -/
def pointAt (sel : RamSelect) (ac : BitVec 7) (s : State) : State :=
  { s with lcd := { s.lcd with sel := sel, ac := ac } }

/-- Fill DDRAM with 0x20. -/
def fillDdram (s : State) : State := { s with lcd := { s.lcd with ddram := blankDdram } }

def setEntryMode (i sh : Bool) (s : State) : State := { s with lcd := { s.lcd with inc := i, shift := sh } }

def setDisplayControl (d c b : Bool) (s : State) : State :=
  { s with lcd := { s.lcd with displayOn := d, cursorOn := c, blinkOn := b } }

def setFunction (l n f : Bool) (s : State) : State :=
  { s with lcd := { s.lcd with bus8 := l, twoLine := n, font10 := f } }

/-- The address after `ac`: a CGRAM address wraps at 6 bits; in 2-line mode DDRAM address 0x27 is followed by 0x40 and 0x67
by 0x00. -/
def nextAddress (sel : RamSelect) (twoLine : Bool) (ac : BitVec 7) : BitVec 7 :=
  match sel with
  | .cgram => (ac + 1) &&& 0x3F
  | .ddram =>
    if twoLine = true ∧ ac = 0x27 then 0x40
    else if twoLine = true ∧ ac = 0x67 then 0x00
    else ac + 1

/-- The address counter after a data byte. The direction is the entry mode's (R44 (c)); with `i = 0` the spec states no
address, so it is free (log 13). -/
def advancedAddress (l : Lcd) (draw : Nat) : BitVec 7 :=
  if l.inc then nextAddress l.sel l.twoLine l.ac else Config.freeAddress draw

/-- DDRAM after a data byte at `AC`. Where DDRAM has no cell at `AC` the spec states no effect, and no byte of it keeps a
known value (log 12). -/
def storeDdram (l : Lcd) (d : Byte) : Memory :=
  if ddramCell l.ac.toNat then l.ddram.write l.ac.toNat d else []

/-- A data byte is stored at `AC` in the selected RAM and the address advances (R44). -/
def storeData (d : Byte) (s : State) : State :=
  let l := s.lcd
  let l' : Lcd :=
    match l.sel with
    | .ddram => { l with ddram := storeDdram l d, ac := advancedAddress l s.receiverDraws }
    | .cgram => { l with cgram := l.cgram.write (l.ac &&& 0x3F).toNat d, ac := advancedAddress l s.receiverDraws }
  { s with lcd := l', receiverDraws := s.receiverDraws + 1 }

/-- `INITIALIZE_DISPLAY` begins. If it is not the first, or transfers came before it, the premise of U2 fails, and no byte of
the memories has a known value (log 36). -/
def Lcd.beginInit (l : Lcd) : Lcd :=
  match l.order with
  | .clean => { l with initBegun := true, order := .once }
  | .once => { l with initBegun := true, order := .broken, ddram := [], cgram := [] }
  | .broken => { l with initBegun := true, ddram := [], cgram := [] }

def beginInit (s : State) : State := { s with lcd := s.lcd.beginInit }

/-- Where the premise "initialised once, first" has failed, DDRAM and CGRAM may hold any value (U2; log 36). -/
def Lcd.forget (l : Lcd) : Lcd :=
  match l.order with
  | .clean => l
  | .once => l
  | .broken => { l with ddram := [], cgram := [] }

/-- The controller executes a transfer with this effect (R44). Before `INITIALIZE_DISPLAY` nothing is to be assumed of it
(70_reset_and_hazards.md R172, R180, U2, U13; log 36): it is left unspecified, and the premise of U2 fails. -/
def controllerRuns (effect : State → State) (s : State) : State :=
  if s.lcd.initBegun then
    let t := effect s
    { t with lcd := t.lcd.forget }
  else
    let t := unspecifyController s
    { t with lcd := { t.lcd with order := .broken } }

/-- The controller's transfer leaves its latch. -/
def clearPending (s : State) : State := { s with lcd := { s.lcd with pending := none } }

/-! ### Emitting an event -/

/-- The event joins the trace; a `Set` changes its line (10_state.md R20, R24). -/
def perform (e : Event) (s : State) : State :=
  match e with
  | .set r v => { s with trace := s.trace ++ [e], line := s.line.set r v }
  | .wait _ => { s with trace := s.trace ++ [e] }
  | .mux _ _ => { s with trace := s.trace ++ [e] }
  | .mode _ => { s with trace := s.trace ++ [e] }

/-- `SCRATCH <- b` (R15). -/
def stageByte (b : Byte) (s : State) : State := { s with scratch := b }

/-- `CONFIGURED <- 1` (R17). -/
def setConfigured (s : State) : State := { s with configured := true }

/-- One entry of `SEQ` is carried out. -/
def emit (e : SeqEntry) (s : State) : State :=
  match e.effect with
  | .plain => receiversReact s.line (perform e.event s)
  | .stage b => receiversReact s.line (perform e.event (stageByte b s))
  | .initBegins => beginInit (receiversReact s.line (perform e.event s))
  | .modeOutput r => unspecifyReceivers (unspecifyLevel r (perform e.event s))
  | .idleLevel => unspecifyReceivers (perform e.event s)
  | .configure => setConfigured (unspecifyReceivers (perform e.event s))

/-! ### Event sequences -/

/-- An event with nothing besides. -/
def plain (e : Event) : SeqEntry := ⟨e, .plain⟩

/-- The three events of bit slot `i` (41_shift_register_transport.md R90). -/
def bitSlot (b : Byte) (i : Nat) : List SeqEntry :=
  [plain (.set .srclk false), plain (.set .srdat (b.getLsbD i)), plain (.set .srclk true)]

/-- The serial frame of `TRANSMIT(b)`, 27 events (R90); `SCRATCH` is written before the first. -/
def transmitSeq (b : Byte) : List SeqEntry :=
  [⟨.set .srclr false, .stage b⟩, plain (.wait Config.tClrLowUs), plain (.set .srclr true)] ++
    (List.range Config.nBits).flatMap (bitSlot b)

/-- The enable pulse, 6 events (42_control_line_sequencer.md R100). -/
def pulseSeq : List SeqEntry :=
  [plain (.set .en false), plain (.wait Config.tEnPreUs), plain (.set .en true), plain (.wait Config.tEnHighUs),
    plain (.set .en false), plain (.wait Config.tEnPostUs)]

/-- The bus-transfer frame of the byte put into the shift register, 35 events (30_encoding.md R61). -/
def busSeq (rs : Bool) (serial : Byte) : List SeqEntry :=
  [plain (.set .rs rs), plain (.set .rw Config.rwWrite)] ++ transmitSeq serial ++ pulseSeq

/-- `WRITE_COMMAND(b)` under a value of `MIRRORED` (43_command_data_dispatch.md R110). -/
def commandSeq (mirrored : Bool) (b : Byte) : List SeqEntry := busSeq Config.rsCmd (mirrorIf mirrored b)

/-- `WRITE_DATA(b)` under a value of `MIRRORED` (R111). -/
def dataSeq (mirrored : Bool) (b : Byte) : List SeqEntry := busSeq Config.rsData (mirrorIf mirrored b)

/-- The settle wait of `GOTO` and `CLEAR_DISPLAY` (00_scope.md R6). -/
def settleSeq : List SeqEntry := [plain (.wait Config.tSettleUs)]

/-- The settle wait of `INITIALIZE_DISPLAY`, with which it begins (00_scope.md R6; log 36). -/
def initSettleSeq : List SeqEntry := [⟨.wait Config.tSettleUs, .initBegins⟩]

/-- The six roles in order (10_state.md R12). -/
def roles : List Role := [.srclk, .srclr, .srdat, .en, .rs, .rw]

/-- The 18 events of `SETUP` (40_pin_configuration.md R80, R81; order of the groups D14, log 33). -/
def setupSeq (phys logi : PerRole PinId) : List SeqEntry :=
  roles.map (fun r => plain (.mux (phys.get r) r)) ++
    roles.map (fun r => ⟨.mode (logi.get r), .modeOutput r⟩) ++
    [⟨.set .srclr true, .idleLevel⟩, ⟨.set .srclk true, .idleLevel⟩, ⟨.set .srdat false, .idleLevel⟩,
      ⟨.set .en false, .idleLevel⟩, ⟨.set .rs false, .idleLevel⟩, ⟨.set .rw false, .configure⟩]

end Machine

end Sys2Proof
end

