-- ==== Sys2Proof/Machine/Flags.lean ====
section
/-! DEFINITION. The one-bit state BUSY and CONFIGURED around an operation (10_state.md R17, R18, R20), and the views the host
has of the state: the ports (R26) and CFG (R22). There are no condition codes (R21). -/

namespace Sys2Proof.Machine

/-! ### Accepting, advancing and completing an operation -/

/-- The operation is complete: `BUSY` falls and the operand latches are released (R18, R20, R27). -/
def finish (s : State) : State := { s with busy := false, oper := none }

/-- Accept an operation: `SEQ` takes its whole event list and `BUSY` rises (R20). An operation without events is complete at
once (30_encoding.md R54). -/
def accept (i : Instr) (entries : List SeqEntry) (s : State) : State :=
  match entries with
  | [] => finish { s with seq := [] }
  | e :: rest => { s with seq := e :: rest, busy := true, oper := some i }

/-- One step of the sequencer: the first event leaves `SEQ` and is emitted; with the last one the operation is complete
(R20). -/
def advance (s : State) : State :=
  match s.seq with
  | [] => finish s
  | e :: rest =>
    match rest with
    | [] => finish (emit e { s with seq := [] })
    | _ :: _ => emit e { s with seq := rest }

/-- The entry drives `EN`. -/
def SeqEntry.strobes (e : SeqEntry) : Bool :=
  match e.event with
  | .set .en _ => true
  | _ => false

/-- Issue an operation other than `SETUP`: refused while another is in progress (60_exceptions.md R157), before `SETUP` (R156),
and, if it strobes `EN`, while `EN` is high (42_control_line_sequencer.md R102, U10). -/
def issue (i : Instr) (entries : List SeqEntry) (s : State) : Host.Outcome State Fault Refusal :=
  if s.busy then .refused .requestWhileBusy
  else if !s.configured then .refused .notConfigured
  else if s.line.en && entries.any SeqEntry.strobes then .refused .enableHigh
  else .next (accept i entries s)

/-! ### Views -/

/-- The configuration seen as one register (R22): `MIRRORED` at bit 0, `PHYS[r]` from bit 8 + 8 r, `LOGI[r]` from bit
56 + 8 r; bits 7:1 are no field and read 0 here. -/
def State.cfg (s : State) : BitVec 104 :=
  s.logi.rw ++ s.logi.rs ++ s.logi.en ++ s.logi.srdat ++ s.logi.srclr ++ s.logi.srclk ++
    s.phys.rw ++ s.phys.rs ++ s.phys.en ++ s.phys.srdat ++ s.phys.srclr ++ s.phys.srclk ++
    (0 : BitVec 7) ++ BitVec.ofBool s.mirrored

/-- The output ports of R26. -/
structure Ports where
  reqReady : Bool
  plReady : Bool
  busy : Bool
  srClk : Bool
  srClrN : Bool
  srDat : Bool
  lcdEn : Bool
  lcdRs : Bool
  lcdRw : Bool
  /-- `mux_req`, `mux_pin`, `mux_role`: the `Mux` event emitted last, if it is the last event. -/
  mux : Option (PinId × Role)
  /-- `mode_req`, `mode_pin`: likewise for `Mode`. -/
  mode : Option PinId
  dbgScratch : Byte
deriving DecidableEq, Repr

/-- The `Mux` request an event is (R26). -/
def Event.muxRequest (e : Event) : Option (PinId × Role) :=
  match e with
  | .mux p r => some (p, r)
  | _ => none

/-- The `Mode` request an event is (R26). -/
def Event.modeRequest (e : Event) : Option PinId :=
  match e with
  | .mode g => some g
  | _ => none

/-- The block can take a payload byte: it is idle and the request at the port takes payload (log 30). -/
def State.plReady (s : State) : Bool :=
  match s.requests with
  | [] => false
  | w :: _ => !s.busy && decide (0 < payloadCount w)

/-- What the ports show (R26; log 30). -/
def State.ports (s : State) : Ports where
  reqReady := !s.busy
  plReady := s.plReady
  busy := s.busy
  srClk := s.line.srclk
  srClrN := s.line.srclr
  srDat := s.line.srdat
  lcdEn := s.line.en
  lcdRs := s.line.rs
  lcdRw := s.line.rw
  mux := s.trace.getLast?.bind Event.muxRequest
  mode := s.trace.getLast?.bind Event.modeRequest
  dbgScratch := s.scratch

/-- What the delay counter of a clocked implementation is loaded with for `Wait(n)`: `ceil(n us / T_CLK)`, at least 1
(60_exceptions.md R161). The clock period is an argument, in nanoseconds (R7 leaves it OPEN; log 26). -/
def delayLoad (tClkNs us : Nat) : Nat := max 1 ((us * 1000 + tClkNs - 1) / tClkNs)

end Sys2Proof.Machine
end

