-- ==== Sys2Proof/Machine/Addressing.lean ====
section
/-! DEFINITION. Addressing layer: SET_DDRAM_ADDR, SET_CGRAM_ADDR, GOTO (44_addressing_layer.md). -/

namespace Sys2Proof.Machine

/-- `WRITE_COMMAND(0x80 | (addr & 0x7F))` (R120). -/
def setDdramAddrSeq (mirrored : Bool) (addr : Nat) : List SeqEntry := commandSeq mirrored (ddramCommand addr)

/-- `WRITE_COMMAND(0x40 | (addr & 0x3F))` (R121). -/
def setCgramAddrSeq (mirrored : Bool) (addr : Nat) : List SeqEntry := commandSeq mirrored (cgramCommand addr)

/-- The settle wait, then `SET_DDRAM_ADDR(row * 64 + column)` (R122). -/
def gotoSeq (mirrored : Bool) (column row : Nat) : List SeqEntry :=
  settleSeq ++ setDdramAddrSeq mirrored (gotoAddress column row)

/-- `SET_DDRAM_ADDR(addr)` (R120). -/
def execSetDdramAddr (addr : Nat) (s : State) : Host.Outcome State Fault Refusal :=
  issue (.setDdramAddr addr) (setDdramAddrSeq s.mirrored addr) s

/-- `SET_CGRAM_ADDR(addr)` (R121). -/
def execSetCgramAddr (addr : Nat) (s : State) : Host.Outcome State Fault Refusal :=
  issue (.setCgramAddr addr) (setCgramAddrSeq s.mirrored addr) s

/-- `GOTO(column, row)` (R122 to R126). -/
def execGoto (column row : Nat) (s : State) : Host.Outcome State Fault Refusal :=
  issue (.goto column row) (gotoSeq s.mirrored column row) s

end Sys2Proof.Machine
end

