-- ==== Sys2Proof/Machine/Bus.lean ====
section
/-! DEFINITION. Command/data dispatch: WRITE_COMMAND, WRITE_DATA (43_command_data_dispatch.md). -/

namespace Sys2Proof.Machine

/-- `WRITE_COMMAND(b)` (R110): `MIRRORED` is read at acceptance (R113). -/
def execWriteCommand (b : Byte) (s : State) : Host.Outcome State Fault Refusal :=
  issue (.writeCommand b) (commandSeq s.mirrored b) s

/-- `WRITE_DATA(b)` (R111). -/
def execWriteData (b : Byte) (s : State) : Host.Outcome State Fault Refusal :=
  issue (.writeData b) (dataSeq s.mirrored b) s

end Sys2Proof.Machine
end

