-- ==== Sys2Proof/Machine/Control.lean ====
section
/-! DEFINITION. Control-line sequencer: PULSE_ENABLE (42_control_line_sequencer.md). -/

namespace Sys2Proof.Machine

/-- `PULSE_ENABLE` (R100 to R105). -/
def execPulseEnable (s : State) : Host.Outcome State Fault Refusal := issue .pulseEnable pulseSeq s

end Sys2Proof.Machine
end

