-- ==== Sys2Proof/Machine/Controller.lean ====
section
/-! DEFINITION. The seven LCD command bytes, executed by the LCD controller (30_encoding.md R62 to R68; effects from
20_memory.md R44, second half). PRESUMED, log 9: the spec marks these effects as general knowledge
(93_implementation_defined.md G5). They change the controller only. Before INITIALIZE_DISPLAY nothing is
known of what they leave (70_reset_and_hazards.md R172, R180; log 36): `controllerRuns`. -/

namespace Sys2Proof.Machine

/-- 0x01: fills DDRAM with 0x20, `AC = 0`, `SEL = DDRAM`. -/
def execLcdClearDisplay (s : State) : Host.Outcome State Fault Refusal :=
  .next (controllerRuns (fun u => pointAt .ddram 0 (fillDdram u)) s)

/-- 0x02: `AC = 0`, `SEL = DDRAM`. -/
def execLcdReturnHome (s : State) : Host.Outcome State Fault Refusal :=
  .next (controllerRuns (pointAt .ddram 0) s)

/-- 0b000001is: mode bits only (R63). -/
def execLcdEntryModeSet (i sh : Bool) (s : State) : Host.Outcome State Fault Refusal :=
  .next (controllerRuns (setEntryMode i sh) s)

/-- 0b00001dcb: mode bits only (R64). -/
def execLcdDisplayControl (d c b : Bool) (s : State) : Host.Outcome State Fault Refusal :=
  .next (controllerRuns (setDisplayControl d c b) s)

/-- 0b001lnf00: mode bits only (R65). -/
def execLcdFunctionSet (l n f : Bool) (s : State) : Host.Outcome State Fault Refusal :=
  .next (controllerRuns (setFunction l n f) s)

/-- 0b01aaaaaa: `AC = a`, `SEL = CGRAM` (R67). -/
def execLcdSetCgramAddr (addr : BitVec 6) (s : State) : Host.Outcome State Fault Refusal :=
  .next (controllerRuns (pointAt .cgram (addr.setWidth 7)) s)

/-- 0b1aaaaaaa: `AC = a`, `SEL = DDRAM` (R66). -/
def execLcdSetDdramAddr (addr : BitVec 7) (s : State) : Host.Outcome State Fault Refusal :=
  .next (controllerRuns (pointAt .ddram addr) s)

end Sys2Proof.Machine
end

