-- ==== Sys2Proof/Machine/Display.lean ====
section
/-! DEFINITION. Display operations: INITIALIZE_DISPLAY, CLEAR_DISPLAY, CREATE_CUSTOM_CHAR, DRAW_STR
(45_display_operations.md). -/

namespace Sys2Proof.Machine

/-- Settle, then entry mode, display control, function set, in that order (R130, R134). -/
def initializeDisplaySeq (mirrored : Bool) : List SeqEntry :=
  initSettleSeq ++ commandSeq mirrored Config.cmdEntryMode ++ commandSeq mirrored Config.cmdDisplayCtrl ++
    commandSeq mirrored Config.cmdFunctionSet

/-- Settle, then clear display, return home (R131). -/
def clearDisplaySeq (mirrored : Bool) : List SeqEntry :=
  settleSeq ++ commandSeq mirrored Config.cmdClear ++ commandSeq mirrored Config.cmdHome

/-- `WRITE_DATA` of each byte, in order (R133). -/
def drawStrSeq (mirrored : Bool) (text : List Byte) : List SeqEntry := text.flatMap (dataSeq mirrored)

/-- `SET_CGRAM_ADDR` of the masked slot, then the eight glyph bytes whole (R132, R137, R138). -/
def createCustomCharSeq (mirrored : Bool) (slot : Nat) (glyph : Glyph) : List SeqEntry :=
  setCgramAddrSeq mirrored (slotAddress slot) ++ (glyphBytes glyph).flatMap (dataSeq mirrored)

/-- `INITIALIZE_DISPLAY` (R130). -/
def execInitializeDisplay (s : State) : Host.Outcome State Fault Refusal :=
  issue .initializeDisplay (initializeDisplaySeq s.mirrored) s

/-- `CLEAR_DISPLAY` (R131). -/
def execClearDisplay (s : State) : Host.Outcome State Fault Refusal :=
  issue .clearDisplay (clearDisplaySeq s.mirrored) s

/-- `CREATE_CUSTOM_CHAR(slot, g0..g7)` (R132). -/
def execCreateCustomChar (slot : Nat) (glyph : Glyph) (s : State) : Host.Outcome State Fault Refusal :=
  issue (.createCustomChar slot glyph) (createCustomCharSeq s.mirrored slot glyph) s

/-- `DRAW_STR(text)` (R133, R140, R141). -/
def execDrawStr (text : List Byte) (s : State) : Host.Outcome State Fault Refusal :=
  issue (.drawStr text) (drawStrSeq s.mirrored text) s

end Sys2Proof.Machine
end

