-- ==== Sys2Proof/Machine/Pins.lean ====
section
/-! DEFINITION. Pin configuration: SETUP (40_pin_configuration.md). -/

namespace Sys2Proof.Machine

/-- `PHYS`, `LOGI` and `MIRRORED` are written before the first event (R80). -/
def bindHandle (pins : PerRole PinId) (mirrored : Bool) (s : State) : State :=
  { s with phys := pins, logi := Config.logicalDefault, mirrored := mirrored }

/-- `SETUP` (R80 to R85). A second one is performed again in full (R84; log 27); the six pins are taken as given (R85; log
28). -/
def execSetup (pins : PerRole PinId) (mirrored : Bool) (s : State) : Host.Outcome State Fault Refusal :=
  if s.busy then .refused .requestWhileBusy
  else
    .next (accept (.setup pins mirrored) (setupSeq pins Config.logicalDefault) (bindHandle pins mirrored s))

end Sys2Proof.Machine
end

