-- ==== Sys2Proof/Machine/Transport.lean ====
section
/-! DEFINITION. Shift-register transport: TRANSMIT (41_shift_register_transport.md). -/

namespace Sys2Proof.Machine

/-- `TRANSMIT(b)` (R90 to R98): `MIRRORED` is not read. -/
def execTransmit (b : Byte) (s : State) : Host.Outcome State Fault Refusal :=
  issue (.transmit b) (transmitSeq b) s

end Sys2Proof.Machine
end

