-- ==== Sys2Proof/Machine/Dispatch.lean ====
section
/-! DEFINITION. One arm per instruction. An operation of the block is accepted (10_state.md R20); a command of the LCD
controller is executed (20_memory.md R44). -/

namespace Sys2Proof.Machine

def exec (i : Instr) (s : State) : Host.Outcome State Fault Refusal :=
  match i with
  | .setup pins mirrored => Sys2Proof.Machine.execSetup pins mirrored s
  | .transmit b => Sys2Proof.Machine.execTransmit b s
  | .pulseEnable => Sys2Proof.Machine.execPulseEnable s
  | .writeCommand b => Sys2Proof.Machine.execWriteCommand b s
  | .writeData b => Sys2Proof.Machine.execWriteData b s
  | .setDdramAddr addr => Sys2Proof.Machine.execSetDdramAddr addr s
  | .setCgramAddr addr => Sys2Proof.Machine.execSetCgramAddr addr s
  | .goto column row => Sys2Proof.Machine.execGoto column row s
  | .initializeDisplay => Sys2Proof.Machine.execInitializeDisplay s
  | .clearDisplay => Sys2Proof.Machine.execClearDisplay s
  | .createCustomChar slot glyph => Sys2Proof.Machine.execCreateCustomChar slot glyph s
  | .drawStr text => Sys2Proof.Machine.execDrawStr text s
  | .lcdClearDisplay => Sys2Proof.Machine.execLcdClearDisplay s
  | .lcdReturnHome => Sys2Proof.Machine.execLcdReturnHome s
  | .lcdEntryModeSet inc sh => Sys2Proof.Machine.execLcdEntryModeSet inc sh s
  | .lcdDisplayControl d c b => Sys2Proof.Machine.execLcdDisplayControl d c b s
  | .lcdFunctionSet l n f => Sys2Proof.Machine.execLcdFunctionSet l n f s
  | .lcdSetCgramAddr addr => Sys2Proof.Machine.execLcdSetCgramAddr addr s
  | .lcdSetDdramAddr addr => Sys2Proof.Machine.execLcdSetDdramAddr addr s

end Sys2Proof.Machine
end

