-- ==== Sys2Proof/Machine/Fetch.lean ====
section
/-! DEFINITION. What the next step does: the controller's pending transfer first, then the sequencer, then the request at the
port (10_state.md R20, 20_memory.md R43, 60_exceptions.md R158; logs 8, 23). -/

namespace Sys2Proof.Machine

/-- What the next step does. -/
inductive Fetched where
  /-- Run this instruction in this state (the one its words have left). -/
  | run (i : Instr) (s : State)
  /-- A step that runs no instruction gives this state. -/
  | own (s : State)
  /-- There is no meaning. -/
  | refuse (r : Refusal)
deriving DecidableEq, Repr

/-- The controller executes the transfer it took: a data byte is stored, a command byte decoded and run (20_memory.md R44). A
byte that is none of the seven commands, or a transfer that is not a write, leaves the controller unspecified (log 11), as every
transfer does before `INITIALIZE_DISPLAY` (log 36). -/
def fetchTransfer (t : Transfer) (s : State) : Fetched :=
  if t.rw ≠ Config.rwWrite then .own (controllerRuns unspecifyController s)
  else if t.rs = Config.rsData then .own (controllerRuns (storeData t.db) s)
  else
    match decodeCommand t.db with
    | .ok i => .run i s
    | .unknownCommand _ => .own (controllerRuns unspecifyController s)

/-- The block is idle: it takes the request at the port once its payload bytes are all there (30_encoding.md R54). With no
request, or an incomplete one, nothing happens (60_exceptions.md R163). A reserved operation number is refused (R57). -/
def fetchRequest (s : State) : Fetched :=
  match s.requests with
  | [] => .own s
  | w :: more =>
    match decodeRequest w s.payload with
    | .ok i rest => .run i { s with requests := more, payload := rest }
    | .payloadMissing _ => .own s
    | .reservedOperation op => .refuse (.reservedOperation op)

/-- What the next step does. While `BUSY`, requests stay at the port (R158). -/
def fetch (s : State) : Fetched :=
  match s.lcd.pending with
  | some t => fetchTransfer t (clearPending s)
  | none => if s.busy then .own (advance s) else fetchRequest s

/-- The state in which a command byte is what the controller executes next. -/
def presentCommand (b : Byte) (s : State) : State :=
  { s with lcd := { s.lcd with pending := some ⟨Config.rsCmd, Config.rwWrite, b⟩ } }

/-- The state in which a request, its payload all 0, is what the block accepts next: nothing is in progress and the request
is first at the port. -/
def presentRequest (w : ReqWord) (s : State) : State :=
  { s with
    busy := false
    seq := []
    oper := none
    requests := w :: s.requests
    payload := List.replicate (payloadCount w) 0 ++ s.payload
    lcd := { s.lcd with pending := none } }

end Sys2Proof.Machine
end

