-- ==== Sys2Proof/Machine/Step.lean ====
section
/-! DEFINITION. One step of the machine: one event of the block, one acceptance, or one transfer executed by the controller
(10_state.md R20, D8; log 1). -/

namespace Sys2Proof.Machine

/-- One step. -/
def step (s : State) : Host.Outcome State Fault Refusal :=
  match fetch s with
  | .run i s' => exec i s'
  | .own s' => .next s'
  | .refuse r => .refused r

/-- `s` with the instruction of a table row where `step` fetches next: an 8-bit row is a command byte for the controller, a
longer one a request with payload bytes 0 (log 23). -/
def State.withFetchWord (s : State) (nbits w : Nat) : State :=
  if nbits ≤ 8 then presentCommand (BitVec.ofNat 8 w) s else presentRequest (BitVec.ofNat 20 w) s

end Sys2Proof.Machine
end

