-- ==== Sys2Proof/Safety.lean ====
section
/-! DEFINITION. The terms claims are stated in: runs, the events of the operations as the spec writes them out, waveforms, the
invariants, and what the controller cannot influence. -/

namespace Sys2Proof.Machine

/-! ### Runs -/

/-- `n` steps, stopping at a refusal or fault. -/
def runSteps (n : Nat) (s : State) : Host.Outcome State Fault Refusal :=
  match n with
  | 0 => .next s
  | n + 1 =>
    match step s with
    | .next t => runSteps n t
    | .fault r => .fault r
    | .refused r => .refused r

/-- The levels every idle line but `SRDAT` and `RS` has between operations (10_state.md R29). -/
def restLevels (l : PerRole Bool) : Prop :=
  l.srclk = true ∧ l.srclr = true ∧ l.en = false ∧ l.rw = Config.rwWrite

/-- The block can accept an operation: `SETUP` has completed, nothing is in progress, and the levels are those of R29, "the
precondition each operation assumes". -/
def Ready (s : State) : Prop :=
  s.configured = true ∧ s.busy = false ∧ s.lcd.pending = none ∧ restLevels s.line

/-! ### The operations' events, as the spec writes them out -/

/-- The serial frame of 30_encoding.md R59, event by event. -/
def serialFrame (b : Byte) : List Event :=
  [.set .srclr false, .wait 10, .set .srclr true,
    .set .srclk false, .set .srdat (b.getLsbD 0), .set .srclk true,
    .set .srclk false, .set .srdat (b.getLsbD 1), .set .srclk true,
    .set .srclk false, .set .srdat (b.getLsbD 2), .set .srclk true,
    .set .srclk false, .set .srdat (b.getLsbD 3), .set .srclk true,
    .set .srclk false, .set .srdat (b.getLsbD 4), .set .srclk true,
    .set .srclk false, .set .srdat (b.getLsbD 5), .set .srclk true,
    .set .srclk false, .set .srdat (b.getLsbD 6), .set .srclk true,
    .set .srclk false, .set .srdat (b.getLsbD 7), .set .srclk true]

/-- The enable pulse of R60. -/
def enablePulse : List Event :=
  [.set .en false, .wait 1, .set .en true, .wait 80, .set .en false, .wait 100]

/-- The bus-transfer frame of R61 for the byte put into the shift register. -/
def busFrame (rs : Bool) (serial : Byte) : List Event :=
  [.set .rs rs, .set .rw Config.rwWrite] ++ serialFrame serial ++ enablePulse

/-- The twelve operations of the block (R56); the other instructions are the controller's. -/
def isOperation (i : Instr) : Bool :=
  match i with
  | .setup _ _ => true
  | .transmit _ => true
  | .pulseEnable => true
  | .writeCommand _ => true
  | .writeData _ => true
  | .setDdramAddr _ => true
  | .setCgramAddr _ => true
  | .goto _ _ => true
  | .initializeDisplay => true
  | .clearDisplay => true
  | .createCustomChar _ _ => true
  | .drawStr _ => true
  | .lcdClearDisplay => false
  | .lcdReturnHome => false
  | .lcdEntryModeSet _ _ => false
  | .lcdDisplayControl _ _ _ => false
  | .lcdFunctionSet _ _ _ => false
  | .lcdSetCgramAddr _ => false
  | .lcdSetDdramAddr _ => false

/-- The operation is `SETUP`. -/
def isSetup (i : Instr) : Bool :=
  match i with
  | .setup _ _ => true
  | _ => false

/-- The list an operation loads into `SEQ` (10_state.md R20), as a function of the operation and `MIRRORED`. -/
def entriesOf (mirrored : Bool) (i : Instr) : List SeqEntry :=
  match i with
  | .setup pins _ => setupSeq pins Config.logicalDefault
  | .transmit b => transmitSeq b
  | .pulseEnable => pulseSeq
  | .writeCommand b => commandSeq mirrored b
  | .writeData b => dataSeq mirrored b
  | .setDdramAddr addr => setDdramAddrSeq mirrored addr
  | .setCgramAddr addr => setCgramAddrSeq mirrored addr
  | .goto column row => gotoSeq mirrored column row
  | .initializeDisplay => initializeDisplaySeq mirrored
  | .clearDisplay => clearDisplaySeq mirrored
  | .createCustomChar slot glyph => createCustomCharSeq mirrored slot glyph
  | .drawStr text => drawStrSeq mirrored text
  | .lcdClearDisplay => []
  | .lcdReturnHome => []
  | .lcdEntryModeSet _ _ => []
  | .lcdDisplayControl _ _ _ => []
  | .lcdFunctionSet _ _ _ => []
  | .lcdSetCgramAddr _ => []
  | .lcdSetDdramAddr _ => []

/-- The events of a list of sequencer entries. -/
def eventsOf (es : List SeqEntry) : List Event := es.map SeqEntry.event

/-- The bytes handed to `TRANSMIT` by a list of entries, in order. -/
def stagedBytes (es : List SeqEntry) : List Byte :=
  es.filterMap (fun e => match e.effect with | .stage b => some b | _ => none)

/-- The event counts of 70_reset_and_hazards.md R181. -/
def eventCount (i : Instr) : Nat :=
  match i with
  | .setup _ _ => 18
  | .transmit _ => 27
  | .pulseEnable => 6
  | .writeCommand _ => 35
  | .writeData _ => 35
  | .setDdramAddr _ => 35
  | .setCgramAddr _ => 35
  | .goto _ _ => 36
  | .initializeDisplay => 106
  | .clearDisplay => 71
  | .createCustomChar _ _ => 315
  | .drawStr text => 35 * text.length
  | _ => 0

/-- How many of them are `Wait` events (R181). -/
def waitCount (i : Instr) : Nat :=
  match i with
  | .setup _ _ => 0
  | .transmit _ => 1
  | .pulseEnable => 3
  | .writeCommand _ => 4
  | .writeData _ => 4
  | .setDdramAddr _ => 4
  | .setCgramAddr _ => 4
  | .goto _ _ => 5
  | .initializeDisplay => 13
  | .clearDisplay => 9
  | .createCustomChar _ _ => 36
  | .drawStr text => 4 * text.length
  | _ => 0

/-- The minimum durations of R181, microseconds. -/
def minDuration (i : Instr) : Nat :=
  match i with
  | .setup _ _ => 0
  | .transmit _ => 10
  | .pulseEnable => 181
  | .writeCommand _ => 191
  | .writeData _ => 191
  | .setDdramAddr _ => 191
  | .setCgramAddr _ => 191
  | .goto _ _ => 2191
  | .initializeDisplay => 2573
  | .clearDisplay => 2382
  | .createCustomChar _ _ => 1719
  | .drawStr text => 191 * text.length
  | _ => 0

/-- The bus transfers of R181. -/
def transferCount (i : Instr) : Nat :=
  match i with
  | .setup _ _ => 0
  | .transmit _ => 0
  | .pulseEnable => 1
  | .writeCommand _ => 1
  | .writeData _ => 1
  | .setDdramAddr _ => 1
  | .setCgramAddr _ => 1
  | .goto _ _ => 1
  | .initializeDisplay => 3
  | .clearDisplay => 2
  | .createCustomChar _ _ => 9
  | .drawStr text => text.length
  | _ => 0

/-! ### Waveforms (00_scope.md R9) and times -/

/-- The line levels after an event. -/
def applyEvent (l : PerRole Bool) (e : Event) : PerRole Bool :=
  match e with
  | .set r v => l.set r v
  | _ => l

/-- The number of rising edges on line `r` in a trace that starts with the line at `level`. -/
def risingEdges (r : Role) (level : Bool) (es : List Event) : Nat :=
  match es with
  | [] => 0
  | .set r' v :: rest =>
    if r' = r then (if level = false ∧ v = true then 1 else 0) + risingEdges r v rest else risingEdges r level rest
  | .wait _ :: rest => risingEdges r level rest
  | .mux _ _ :: rest => risingEdges r level rest
  | .mode _ :: rest => risingEdges r level rest

/-- The number of falling edges. -/
def fallingEdges (r : Role) (level : Bool) (es : List Event) : Nat :=
  match es with
  | [] => 0
  | .set r' v :: rest =>
    if r' = r then (if level = true ∧ v = false then 1 else 0) + fallingEdges r v rest else fallingEdges r level rest
  | .wait _ :: rest => fallingEdges r level rest
  | .mux _ _ :: rest => fallingEdges r level rest
  | .mode _ :: rest => fallingEdges r level rest

/-- The event is a `Wait`. -/
def Event.isWait (e : Event) : Bool :=
  match e with
  | .wait _ => true
  | _ => false

/-- The least time a trace takes: the sum of its `Wait` events (R181). -/
def leastTime (es : List Event) : Nat :=
  match es with
  | [] => 0
  | .wait n :: rest => n + leastTime rest
  | .set _ _ :: rest => leastTime rest
  | .mux _ _ :: rest => leastTime rest
  | .mode _ :: rest => leastTime rest

/-! ### What a completed operation leaves -/

/-- What is known of a memory of the controller with these contents: nothing, once the premise "initialised once, first" has failed
(93_implementation_defined.md U2; log 36). -/
def knownMemory (s : State) (m : Memory) : Memory := if s.lcd.order = .broken then [] else m

/-- From `s` an operation other than `SETUP` has run to completion in `t` and emitted `events`: nothing is in progress, and
the handle, the host's side of the port and the wiring are as before. -/
def completedWith (events : List Event) (s t : State) : Prop :=
  t.trace = s.trace ++ events ∧ t.busy = false ∧ t.seq = [] ∧ t.oper = none ∧
    t.phys = s.phys ∧ t.logi = s.logi ∧ t.mirrored = s.mirrored ∧ t.configured = s.configured ∧
    t.requests = s.requests ∧ t.payload = s.payload ∧ t.wiring = s.wiring ∧ t.levelDraws = s.levelDraws

/-- The transfer a bus write of byte `b` makes (43_command_data_dispatch.md R110, R111). -/
def sent (s : State) (w : Bool × Byte) : Transfer := ⟨w.1, Config.rwWrite, wired s.wiring (mirrorIf s.mirrored w.2)⟩

/-- The controller of `t` is the controller of `s` after executing the transfers in order, each in a step of its own. -/
def controllerExecutes (ts : List Transfer) (s t : State) : Prop :=
  match ts with
  | [] => t.lcd = s.lcd ∧ t.receiverDraws = s.receiverDraws
  | tr :: rest =>
    ∃ u, step { s with lcd := { s.lcd with pending := some tr } } = .next u ∧ controllerExecutes rest u t

/-- What the last bus write, if there is one, leaves in the lines, `SCRATCH` and the shift register. -/
def lastWrite (last : Option (Bool × Byte)) (s t : State) : Prop :=
  match last with
  | none => t.line = s.line ∧ t.scratch = s.scratch ∧ t.stages = s.stages
  | some w =>
    t.line = ⟨true, true, (mirrorIf s.mirrored w.2).getLsbD 7, false, w.1, Config.rwWrite⟩ ∧
      t.scratch = mirrorIf s.mirrored w.2 ∧ parallelOut t.stages = mirrorIf s.mirrored w.2

/-- From `s` an operation that emits `lead` and then makes these bus writes has run to completion in `t`. -/
def busRun (lead : List Event) (writes : List (Bool × Byte)) (s t : State) : Prop :=
  completedWith (lead ++ writes.flatMap (fun w => busFrame w.1 (mirrorIf s.mirrored w.2))) s t ∧
    lastWrite writes.getLast? s t ∧
    t.received = s.received ++ writes.map (sent s) ∧
    controllerExecutes (writes.map (sent s)) s t

/-! ### Invariants -/

/-- When an event may drive a line inside an operation: the shift lines, `RS` and `RW` only while `EN` is low
(70_reset_and_hazards.md R176, 42_control_line_sequencer.md R105), the data line only while the clock is low
(30_encoding.md R59). -/
def mayDrive (l : PerRole Bool) (e : Event) : Prop :=
  match e with
  | .set .srclk _ => l.en = false
  | .set .srclr _ => l.en = false
  | .set .srdat _ => l.en = false ∧ l.srclk = false
  | .set .rs _ => l.en = false
  | .set .rw _ => l.en = false
  | .set .en _ => True
  | .wait _ => True
  | .mux _ _ => True
  | .mode _ => True

/-- From these levels the remaining entries outside `SETUP` keep `mayDrive`, and all end at the levels of R29. Of `SETUP`'s own
`Mode` events and idle levels nothing is asked but the end; an unspecified level may be either. -/
def Disciplined (l : PerRole Bool) (es : List SeqEntry) : Prop :=
  match es with
  | [] => restLevels l
  | e :: rest =>
    match e.effect with
    | .plain => mayDrive l e.event ∧ Disciplined (applyEvent l e.event) rest
    | .stage _ => mayDrive l e.event ∧ Disciplined (applyEvent l e.event) rest
    | .initBegins => mayDrive l e.event ∧ Disciplined (applyEvent l e.event) rest
    | .modeOutput r => ∀ v, Disciplined ((applyEvent l e.event).set r v) rest
    | .idleLevel => Disciplined (applyEvent l e.event) rest
    | .configure => Disciplined (applyEvent l e.event) rest

/-- The lines are where the rest of the operation, or the idle block, needs them (R29, R176). -/
def LineInv (s : State) : Prop := s.configured = true ∨ s.busy = true → Disciplined s.line s.seq

/-- `SEQ` and `BUSY` agree with the operation in progress (10_state.md R18, R20, R27): the counter form (operation, operands,
index of the next event) and the list form are the same, and an operation other than `SETUP` is in progress only after
`SETUP` (60_exceptions.md R156). -/
def SeqInv (s : State) : Prop :=
  (s.busy = false ∧ s.oper = none ∧ s.seq = []) ∨
    (s.busy = true ∧ ∃ i k, s.oper = some i ∧ isOperation i = true ∧ k < (entriesOf s.mirrored i).length ∧
      s.seq = (entriesOf s.mirrored i).drop k ∧ (isSetup i = true ∨ s.configured = true))

/-- The controller's memories are in canonical form, and every listed address exists (20_memory.md R44). -/
def RamInv (s : State) : Prop :=
  Memory.wf s.lcd.ddram = true ∧ Memory.wf s.lcd.cgram = true ∧
    (∀ c ∈ s.lcd.ddram, ddramCell c.1 = true) ∧ (∀ c ∈ s.lcd.cgram, c.1 < 64)

/-- A byte of the controller's memories has a known value only once `INITIALIZE_DISPLAY` has begun, and only while the premise
"initialised once, first" holds (70_reset_and_hazards.md R172, R180, 93_implementation_defined.md U2; log 36). -/
def KnownInv (s : State) : Prop :=
  (s.lcd.initBegun = false ∨ s.lcd.order = .broken → s.lcd.ddram = [] ∧ s.lcd.cgram = []) ∧
    (s.lcd.initBegun = true → s.lcd.order ≠ .clean)

/-- The invariant every step keeps. -/
def Inv (s : State) : Prop := SeqInv s ∧ LineInv s ∧ RamInv s ∧ KnownInv s

/-! ### What the controller cannot influence -/

/-- Two states agree on the block and the host's side of the port, and on whether the controller has a transfer to
execute. -/
def SameBlock (s s' : State) : Prop :=
  s.line = s'.line ∧ s.phys = s'.phys ∧ s.logi = s'.logi ∧ s.scratch = s'.scratch ∧ s.mirrored = s'.mirrored ∧
    s.configured = s'.configured ∧ s.busy = s'.busy ∧ s.seq = s'.seq ∧ s.oper = s'.oper ∧
    s.requests = s'.requests ∧ s.payload = s'.payload ∧ s.trace = s'.trace ∧ s.levelDraws = s'.levelDraws ∧
    s.lcd.pending.isSome = s'.lcd.pending.isSome

/-- Two outcomes agree on the block. -/
def SameBlockOutcome (o o' : Host.Outcome State Fault Refusal) : Prop :=
  match o, o' with
  | .next t, .next t' => SameBlock t t'
  | .refused r, .refused r' => r = r'
  | .fault r, .fault r' => r = r'
  | _, _ => False

/-- The wiring and the mirror flag match (20_memory.md R42). -/
def matched (s : State) : Bool :=
  match s.wiring with
  | .identity => !s.mirrored
  | .mirror => s.mirrored

end Sys2Proof.Machine
end

