-- ==== Sys2Proof/Certificates/Slice0/Obligations.lean ====
section
/-! DEFINITION. The statements for the provers. `Ready`, `busRun`, `serialFrame` and the other terms are in Sys2Proof/Safety.lean.
A run counts one step for each event and one for each transfer the controller executes (log 8). -/

open Sys2Proof Sys2Proof.Machine

/-! ### Reset and SETUP -/

/-- R28: power-on and the state after `SETUP`. From any state with nothing in progress, `SETUP` completes in 18 steps, leaves
the values R28 lists, keeps `SCRATCH`, and ends with the idle levels in the source's order. That it completes rests on the premise
that the platform accepts the six pins (D27, U5; log 28). The order among the `Mux` and `Mode` events is the spec's own choice
(D14, log 33) and is left out. That the list of received transfers is unchanged is the model's choice (log 25). -/
def Obligations.SetupLeavesIdleHandle : Prop :=
  (State.reset.configured = false ∧ State.reset.busy = false ∧ State.reset.seq = []) ∧
  ∀ (s : State) (pins : PerRole PinId) (m : Bool), s.busy = false → s.lcd.pending = none →
    ∃ a t, exec (.setup pins m) s = .next a ∧ runSteps 18 a = .next t ∧
      t.line = ⟨true, true, false, false, false, false⟩ ∧
      t.phys = pins ∧ t.logi = Config.logicalDefault ∧ t.mirrored = m ∧ t.configured = true ∧
      t.busy = false ∧ t.seq = [] ∧ t.oper = none ∧ t.scratch = s.scratch ∧
      t.requests = s.requests ∧ t.payload = s.payload ∧ t.wiring = s.wiring ∧ t.received = s.received ∧
      ∃ es, t.trace = s.trace ++ es ∧ es.length = 18 ∧
        (es.take 12).Perm
          [.mux pins.srclk .srclk, .mux pins.srclr .srclr, .mux pins.srdat .srdat, .mux pins.en .en,
            .mux pins.rs .rs, .mux pins.rw .rw, .mode Config.logicalDefault.srclk, .mode Config.logicalDefault.srclr,
            .mode Config.logicalDefault.srdat, .mode Config.logicalDefault.en, .mode Config.logicalDefault.rs,
            .mode Config.logicalDefault.rw] ∧
        es.drop 12 =
          [.set .srclr true, .set .srclk true, .set .srdat false, .set .en false, .set .rs false, .set .rw false]

/-- The handle is written by `SETUP` alone (10_state.md sections 2, 4: R13, R14, R16): a step either accepts a `SETUP`, whose
operands it stores, or leaves `PHYS`, `LOGI` and `MIRRORED` as they are. That `SETUP` writes them in the step of its acceptance,
and none of its later events does, is the model's reading (DEDUCED, log 18). -/
def Obligations.HandleWrittenBySetupOnly : Prop :=
  ∀ s t : State, step s = .next t →
    (∃ pins m u, fetch s = .run (.setup pins m) u ∧ t.phys = pins ∧ t.logi = Config.logicalDefault ∧ t.mirrored = m) ∨
    (t.phys = s.phys ∧ t.logi = s.logi ∧ t.mirrored = s.mirrored)

/-- `CONFIGURED` is never cleared, and only the last event of `SETUP` sets it (10_state.md section 4: R17): a step from a state
that keeps the invariant leaves it as it is, or `SETUP` is in progress with one event left, and completes. -/
def Obligations.ConfiguredSetBySetupOnly : Prop :=
  ∀ s t : State, Inv s → step s = .next t →
    t.configured = s.configured ∨
    (t.configured = true ∧ s.busy = true ∧ t.busy = false ∧
      ∃ pins m e, s.oper = some (.setup pins m) ∧ s.seq = [e])

/-! ### Accepting an operation and emitting its events -/

/-- R20: acceptance loads `SEQ` with the operation's whole event list; a step of the block removes the first event and emits
it, a `Set` changing its line; the operation is complete, and `BUSY` falls, when `SEQ` is empty. -/
def Obligations.SequencerEmitsOneEventPerStep : Prop :=
  (∀ (i : Instr) (s a : State), isOperation i = true → exec i s = .next a →
    a.seq = entriesOf s.mirrored i ∧ a.busy = !a.seq.isEmpty ∧ a.trace = s.trace) ∧
  (∀ (s : State) (e : SeqEntry) (rest : List SeqEntry),
    s.lcd.pending = none → s.busy = true → s.seq = e :: rest →
    ∃ t, step s = .next t ∧ t.trace = s.trace ++ [e.event] ∧ t.seq = rest ∧ t.busy = !rest.isEmpty ∧
      ((∀ r, e.effect ≠ .modeOutput r) → t.line = applyEvent s.line e.event))

/-- What an operation is accepted with, for every operation but `SETUP` and every state in which it may start (10_state.md
section 3): exactly `SEQ`, `BUSY` and the operand latches change. That `TRANSMIT` does not write `SCRATCH` yet is the model's reading
(DEDUCED, log 17). -/
def Obligations.AcceptanceChangesSequencerOnly : Prop :=
  ∀ (i : Instr) (s : State), isOperation i = true → isSetup i = false →
    s.configured = true → s.busy = false → s.line.en = false →
    exec i s = .next { s with
      seq := entriesOf s.mirrored i
      busy := !(entriesOf s.mirrored i).isEmpty
      oper := if (entriesOf s.mirrored i).isEmpty then none else some i }

/-- The frame of acceptance, `SETUP` included: no line, no receiver, no byte of DDRAM or CGRAM, no port input changes, and only
`SETUP` writes the handle (10_state.md sections 1, 3). That `SETUP` writes it at acceptance already (log 18), and that `SCRATCH` is
not written before the first event of `TRANSMIT` (log 17), are the model's reading (DEDUCED). -/
def Obligations.AcceptanceFrame : Prop :=
  ∀ (i : Instr) (s a : State), isOperation i = true → exec i s = .next a →
    a.line = s.line ∧ a.scratch = s.scratch ∧ a.configured = s.configured ∧ a.requests = s.requests ∧
    a.payload = s.payload ∧ a.stages = s.stages ∧ a.wiring = s.wiring ∧ a.trace = s.trace ∧ a.received = s.received ∧
    a.lcd = s.lcd ∧ (∀ x, a.lcd.ddram.read x = s.lcd.ddram.read x) ∧ (∀ x, a.lcd.cgram.read x = s.lcd.cgram.read x) ∧
    (isSetup i = false → a.phys = s.phys ∧ a.logi = s.logi ∧ a.mirrored = s.mirrored) ∧
    (∀ pins m, i = .setup pins m → a.phys = pins ∧ a.logi = Config.logicalDefault ∧ a.mirrored = m)

/-- R182: every operation terminates, after exactly the number of events in R181, whatever its operands; it ends at the idle
levels of R29. The number of steps is the number of events and of transfers (log 8). For `SETUP` this rests on the premise that the
platform accepts the six pins (D27, U5; log 28), and that it puts no transfer into the list is the model's choice (log 25). -/
def Obligations.OperationRunsToCompletion : Prop :=
  ∀ (i : Instr) (s : State), isOperation i = true → Ready s →
    ∃ a t, exec i s = .next a ∧ runSteps (eventCount i + transferCount i) a = .next t ∧
      t.busy = false ∧ t.seq = [] ∧ t.oper = none ∧ t.configured = true ∧ restLevels t.line ∧ t.lcd.pending = none ∧
      t.trace = s.trace ++ eventsOf (entriesOf s.mirrored i) ∧ (eventsOf (entriesOf s.mirrored i)).length = eventCount i ∧
      t.received.length = s.received.length + transferCount i

/-- The table of 70_reset_and_hazards.md section 4 (R181): events, waits, least durations and transfers. -/
def Obligations.EventCountsAndDurations : Prop :=
  ∀ (i : Instr) (m : Bool), isOperation i = true →
    (eventsOf (entriesOf m i)).length = eventCount i ∧
    ((eventsOf (entriesOf m i)).filter Event.isWait).length = waitCount i ∧
    leastTime (eventsOf (entriesOf m i)) = minDuration i ∧
    (i ≠ .pulseEnable → (∀ b, i ≠ .transmit b) → (stagedBytes (entriesOf m i)).length = transferCount i)

/-! ### Transport and enable pulse -/

/-- R59 to R61: the three line formats, as the events `TRANSMIT`, `PULSE_ENABLE`, `WRITE_COMMAND` and `WRITE_DATA` are accepted
with; `m(b)` is the byte after mirroring. -/
def Obligations.FramesOnTheLines : Prop :=
  ∀ (s : State) (b : Byte), Ready s →
    (∃ a, exec (.transmit b) s = .next a ∧ eventsOf a.seq = serialFrame b) ∧
    (∃ a, exec .pulseEnable s = .next a ∧
      eventsOf a.seq = [.set .en false, .wait 1, .set .en true, .wait 80, .set .en false, .wait 100]) ∧
    (∃ a, exec (.writeCommand b) s = .next a ∧
      eventsOf a.seq =
        [.set .rs Config.rsCmd, .set .rw Config.rwWrite] ++ serialFrame (mirrorIf s.mirrored b) ++ enablePulse) ∧
    (∃ a, exec (.writeData b) s = .next a ∧
      eventsOf a.seq =
        [.set .rs Config.rsData, .set .rw Config.rwWrite] ++ serialFrame (mirrorIf s.mirrored b) ++ enablePulse)

/-- R59, R90: `TRANSMIT(b)` emits the serial frame, least significant bit first, sends `b` as given whatever `MIRRORED` is, and
leaves `b` in the shift register; the controller, `EN`, `RS` and `RW` are untouched. What the shift register holds rests on the
reference model the spec marks as general knowledge (20_memory.md R40, R41; PRESUMED, log 16). -/
def Obligations.TransmitSerialisesByte : Prop :=
  (∀ (b B : Byte) (pl : List Byte), decodeRequest (requestWord 0x1 b B) pl = .ok (.transmit b) pl) ∧
  (∀ b : Byte, leastTime (serialFrame b) = 10) ∧
  ∀ (s : State) (b : Byte), Ready s →
    ∃ a t, exec (.transmit b) s = .next a ∧ runSteps 27 a = .next t ∧
      completedWith (serialFrame b) s t ∧ t.scratch = b ∧
      t.line = { s.line with srclk := true, srclr := true, srdat := b.getLsbD 7 } ∧
      parallelOut t.stages = b ∧ t.lcd = s.lcd ∧ t.received = s.received ∧ t.receiverDraws = s.receiverDraws

/-- The stages during `TRANSMIT(b)` after the clear pulse and `j` rising edges (20_memory.md section 6, R41). -/
def Obligations.StagesDuringTransmit : Prop :=
  ∀ (s : State) (b : Byte) (j : Nat), Ready s → j ≤ 8 →
    ∃ a u, exec (.transmit b) s = .next a ∧ runSteps (3 + 3 * j) a = .next u ∧
      ∀ k, k < 8 → u.stages.getLsbD k = (decide (k < j) && b.getLsbD (j - 1 - k))

/-- Edges on the lines: eight rising edges of the shift clock in a frame, none before the first bit is on the data line
(41_shift_register_transport.md, R93); one rising and one falling edge on `EN` when the pulse starts with `EN` low, and two falling
edges when it starts high (42_control_line_sequencer.md, R102). -/
def Obligations.EdgesOnTheLines : Prop :=
  (∀ (b : Byte) (m : Bool),
    risingEdges .srclk true (eventsOf (entriesOf m (.transmit b))) = 8 ∧
    risingEdges .srclk true ((eventsOf (entriesOf m (.transmit b))).take 5) = 0 ∧
    risingEdges .srclr true (eventsOf (entriesOf m (.transmit b))) = 1) ∧
  ∀ m : Bool,
    risingEdges .en false (eventsOf (entriesOf m .pulseEnable)) = 1 ∧
    fallingEdges .en false (eventsOf (entriesOf m .pulseEnable)) = 1 ∧
    fallingEdges .en true (eventsOf (entriesOf m .pulseEnable)) = 2

/-- R60, R100: `PULSE_ENABLE` emits the enable pulse, writes `LINE[EN]` only, lasts at least 181 microseconds, and the
controller takes one transfer of what the lines and the shift register hold, when `EN` falls (log 10), and executes it (log 8).
-/
def Obligations.PulseEnableStrobesOnce : Prop :=
  (∀ (A B : Byte) (pl : List Byte), decodeRequest (requestWord 0x2 A B) pl = .ok .pulseEnable pl) ∧
  leastTime enablePulse = 181 ∧
  ∀ s : State, Ready s →
    ∃ a t, exec .pulseEnable s = .next a ∧ runSteps 7 a = .next t ∧
      completedWith enablePulse s t ∧ t.line = s.line ∧ t.line.en = false ∧ t.scratch = s.scratch ∧
      t.stages = s.stages ∧ t.received = s.received ++ [⟨s.line.rs, s.line.rw, dataBus s.wiring s.stages⟩] ∧
      controllerExecutes [⟨s.line.rs, s.line.rw, dataBus s.wiring s.stages⟩] s t

/-- During the whole of `PULSE_ENABLE` no line but `EN` changes, and the data bus is stable (42_control_line_sequencer.md,
R105). -/
def Obligations.LinesStableDuringPulse : Prop :=
  ∀ (s : State) (k : Nat), Ready s → k ≤ 7 →
    ∃ a u, exec .pulseEnable s = .next a ∧ runSteps k a = .next u ∧
      u.line = { s.line with en := u.line.en } ∧ u.stages = s.stages ∧ u.wiring = s.wiring

/-! ### Command and data writes -/

/-- R61, R110: `WRITE_COMMAND(b)` selects the command register and write, sends `m(b)` and strobes `EN`: one transfer
`(RS_CMD, RW_WRITE, WIRING(m(b)))`, at least 191 microseconds. That the controller takes it as `EN` falls and executes it in a step
of its own is the model's choice (logs 8, 10), here and in the statements below that run an operation. -/
def Obligations.WriteCommandSendsByte : Prop :=
  (∀ (b B : Byte) (pl : List Byte), decodeRequest (requestWord 0x3 b B) pl = .ok (.writeCommand b) pl) ∧
  (∀ serial : Byte, leastTime (busFrame Config.rsCmd serial) = 191) ∧
  ∀ (s : State) (b : Byte), Ready s →
    ∃ a t, exec (.writeCommand b) s = .next a ∧ runSteps 36 a = .next t ∧ busRun [] [(Config.rsCmd, b)] s t

/-- R61, R111: `WRITE_DATA(b)` is the same with the data register selected. -/
def Obligations.WriteDataSendsByte : Prop :=
  (∀ (b B : Byte) (pl : List Byte), decodeRequest (requestWord 0x4 b B) pl = .ok (.writeData b) pl) ∧
  (∀ serial : Byte, leastTime (busFrame Config.rsData serial) = 191) ∧
  ∀ (s : State) (b : Byte), Ready s →
    ∃ a t, exec (.writeData b) s = .next a ∧ runSteps 36 a = .next t ∧ busRun [] [(Config.rsData, b)] s t

/-- R115: the two traces are equal but for the first event, the level of `RS`, and the two levels differ. -/
def Obligations.CommandAndDataDifferInRsOnly : Prop :=
  Config.rsCmd ≠ Config.rsData ∧
  ∀ (b : Byte) (m : Bool), ∃ rest : List Event, rest.length = 34 ∧
    eventsOf (entriesOf m (.writeCommand b)) = .set .rs Config.rsCmd :: rest ∧
    eventsOf (entriesOf m (.writeData b)) = .set .rs Config.rsData :: rest

/-- R112: the mirror transform, bit by bit and as the shift-and-mask formula. -/
def Obligations.MirrorSwapsPairs : Prop :=
  ∀ b : Byte,
    (mirror b).getLsbD 7 = b.getLsbD 0 ∧ (mirror b).getLsbD 0 = b.getLsbD 7 ∧
    (mirror b).getLsbD 5 = b.getLsbD 1 ∧ (mirror b).getLsbD 1 = b.getLsbD 5 ∧
    (mirror b).getLsbD 4 = b.getLsbD 2 ∧ (mirror b).getLsbD 2 = b.getLsbD 4 ∧
    (mirror b).getLsbD 6 = b.getLsbD 3 ∧ (mirror b).getLsbD 3 = b.getLsbD 6 ∧
    mirror b = ((b &&& 0x01) <<< 7) ||| ((b &&& 0x80) >>> 7) ||| ((b &&& 0x02) <<< 4) ||| ((b &&& 0x20) >>> 4) |||
      ((b &&& 0x04) <<< 2) ||| ((b &&& 0x10) >>> 2) ||| ((b &&& 0x08) <<< 3) ||| ((b &&& 0x40) >>> 3)

/-- R114 (a): the transform is its own inverse; and, by derivation, (b) it preserves the number of set bits, (c) it has the
sixteen fixed points, (d) the five check values. -/
def Obligations.MirrorIsInvolution : Prop :=
  (∀ b : Byte, mirror (mirror b) = b) ∧
  (∀ b : Byte, ((List.range 8).filter (mirror b).getLsbD).length = ((List.range 8).filter b.getLsbD).length) ∧
  (∀ b : Byte, mirror b = b ↔ b ∈ ([0x00, 0x14, 0x22, 0x36, 0x48, 0x5C, 0x6A, 0x7E, 0x81, 0x95, 0xA3, 0xB7, 0xC9, 0xDD,
    0xEB, 0xFF] : List Byte)) ∧
  mirror 0x00 = 0x00 ∧ mirror 0xFF = 0xFF ∧ mirror 0x01 = 0x80 ∧ mirror 0x80 = 0x01 ∧ mirror 0xA5 = 0x93

/-- R113: with `MIRRORED = 1` every byte an operation sends is the mirror of the one it sends with `MIRRORED = 0`, after all
address arithmetic, and `TRANSMIT` on its own is not mirrored. -/
def Obligations.MirroringAppliedToEveryWrite : Prop :=
  (∀ b : Byte, mirrorIf true b = mirror b ∧ mirrorIf false b = b) ∧
  ∀ i : Instr, isOperation i = true →
    ((∀ b, i ≠ .transmit b) →
      stagedBytes (entriesOf true i) = (stagedBytes (entriesOf false i)).map mirror) ∧
    (∀ b, i = .transmit b → stagedBytes (entriesOf true i) = [b] ∧ stagedBytes (entriesOf false i) = [b])

/-- The controller receives the byte itself in a matched configuration and its mirror in an unmatched one, for every
`WRITE_COMMAND` and every `WRITE_DATA` (20_memory.md section 6, R42). -/
def Obligations.MatchedConfigurationDeliversByte : Prop :=
  ∀ (s : State) (b : Byte), Ready s →
    (∃ a t, exec (.writeCommand b) s = .next a ∧ runSteps 36 a = .next t ∧
      t.received = s.received ++ [⟨Config.rsCmd, Config.rwWrite, if matched s then b else mirror b⟩]) ∧
    ∃ a t, exec (.writeData b) s = .next a ∧ runSteps 36 a = .next t ∧
      t.received = s.received ++ [⟨Config.rsData, Config.rwWrite, if matched s then b else mirror b⟩]

/-! ### Addressing -/

/-- R66, R120: `SET_DDRAM_ADDR(addr)` sends the command byte `0x80 | (addr & 0x7F)`, always in 0x80..0xFF; `addr` and
`addr + 128` give the same trace. -/
def Obligations.SetDdramAddrSendsMaskedAddress : Prop :=
  (∀ (A B : Byte) (pl : List Byte), decodeRequest (requestWord 0x5 A B) pl = .ok (.setDdramAddr A.toNat) pl) ∧
  (∀ addr : Nat, (ddramCommand addr).toNat = 0x80 + addr % 128) ∧
  (∀ (m : Bool) (addr : Nat), entriesOf m (.setDdramAddr (addr + 128)) = entriesOf m (.setDdramAddr addr)) ∧
  ∀ (s : State) (addr : Nat), Ready s →
    ∃ a t, exec (.setDdramAddr addr) s = .next a ∧ runSteps 36 a = .next t ∧
      busRun [] [(Config.rsCmd, BitVec.ofNat 8 (0x80 ||| (addr &&& 0x7F)))] s t

/-- R121: `SET_CGRAM_ADDR(addr)` sends the command byte `0x40 | (addr & 0x3F)`, always in 0x40..0x7F; `addr` and `addr + 64`
give the same trace. The command bit is general knowledge (log 7). -/
def Obligations.SetCgramAddrSendsMaskedAddress : Prop :=
  (∀ (A B : Byte) (pl : List Byte), decodeRequest (requestWord 0x6 A B) pl = .ok (.setCgramAddr A.toNat) pl) ∧
  (∀ addr : Nat, (cgramCommand addr).toNat = 0x40 + addr % 64) ∧
  (∀ (m : Bool) (addr : Nat), entriesOf m (.setCgramAddr (addr + 64)) = entriesOf m (.setCgramAddr addr)) ∧
  ∀ (s : State) (addr : Nat), Ready s →
    ∃ a t, exec (.setCgramAddr addr) s = .next a ∧ runSteps 36 a = .next t ∧
      busRun [] [(Config.rsCmd, BitVec.ofNat 8 (0x40 ||| (addr &&& 0x3F)))] s t

/-- R122: `GOTO(column, row)` waits at least 2 milliseconds and then sends `0x80 | ((row * 64 + column) & 0x7F)`; at least
2191 microseconds. R123: the closed form of that byte, and its independence of the operands' width. -/
def Obligations.GotoSendsCursorAddress : Prop :=
  (∀ (A B : Byte) (pl : List Byte), decodeRequest (requestWord 0x7 A B) pl = .ok (.goto A.toNat B.toNat) pl) ∧
  (∀ serial : Byte, leastTime (.wait 2000 :: busFrame Config.rsCmd serial) = 2191) ∧
  (∀ (s : State) (column row : Nat), Ready s →
    ∃ a t, exec (.goto column row) s = .next a ∧ runSteps 37 a = .next t ∧
      busRun [.wait 2000] [(Config.rsCmd, BitVec.ofNat 8 (0x80 ||| ((row * 64 + column) &&& 0x7F)))] s t) ∧
  ∀ column row : Nat,
    (ddramCommand (gotoAddress column row)).toNat = 0x80 + ((row % 2) * 64 + column % 128) % 128 ∧
    ddramCommand (gotoAddress column row) = ddramCommand (gotoAddress (column % 256) (row % 256))

/-- R58: the ignored fields of a request word change nothing of what is decoded, and the operand bits removed by a mask change no
event and leave the same state at the end (the step count includes the controller's steps, log 8). -/
def Obligations.IgnoredBitsHaveNoEffect : Prop :=
  (∀ (A B B' : Byte) (pl : List Byte) (op : BitVec 4),
    op ∈ ([0x1, 0x3, 0x4, 0x5, 0x6, 0xA] : List (BitVec 4)) →
    decodeRequest (requestWord op A B) pl = decodeRequest (requestWord op A B') pl) ∧
  (∀ (A A' B B' : Byte) (pl : List Byte) (op : BitVec 4),
    op ∈ ([0x2, 0x8, 0x9] : List (BitVec 4)) →
    decodeRequest (requestWord op A B) pl = decodeRequest (requestWord op A' B') pl) ∧
  (∀ (A A' B B' : Byte) (pl : List Byte), B.getLsbD 0 = B'.getLsbD 0 →
    decodeRequest (requestWord 0x0 A B) pl = decodeRequest (requestWord 0x0 A' B') pl) ∧
  (∀ (m : Bool) (x y : Nat), x % 128 = y % 128 → entriesOf m (.setDdramAddr x) = entriesOf m (.setDdramAddr y)) ∧
  (∀ (m : Bool) (x y : Nat), x % 64 = y % 64 → entriesOf m (.setCgramAddr x) = entriesOf m (.setCgramAddr y)) ∧
  (∀ (m : Bool) (x y : Nat) (g : Glyph), x % 8 = y % 8 →
    entriesOf m (.createCustomChar x g) = entriesOf m (.createCustomChar y g)) ∧
  ∀ (s : State) (x y : Nat) (g : Glyph), Ready s →
    (x % 128 = y % 128 → ∃ a a' t, exec (.setDdramAddr x) s = .next a ∧ exec (.setDdramAddr y) s = .next a' ∧
      runSteps 36 a = .next t ∧ runSteps 36 a' = .next t) ∧
    (x % 64 = y % 64 → ∃ a a' t, exec (.setCgramAddr x) s = .next a ∧ exec (.setCgramAddr y) s = .next a' ∧
      runSteps 36 a = .next t ∧ runSteps 36 a' = .next t) ∧
    (x % 8 = y % 8 → ∃ a a' t, exec (.createCustomChar x g) s = .next a ∧ exec (.createCustomChar y g) s = .next a' ∧
      runSteps 324 a = .next t ∧ runSteps 324 a' = .next t)

/-! ### Display operations -/

/-- R130: the settle wait, then entry-mode-set, display-control, function-set, in that order; at least 2573 microseconds. The
three byte values are named constants (log 7). `beginInit` notes in the model's own two fields of the controller that the operation
has begun, and changes nothing else but the controller's memories (log 36). -/
def Obligations.InitializeDisplaySendsModes : Prop :=
  (∀ (A B : Byte) (pl : List Byte), decodeRequest (requestWord 0x8 A B) pl = .ok .initializeDisplay pl) ∧
  (∀ m : Bool, leastTime (eventsOf (entriesOf m .initializeDisplay)) = 2573) ∧
  ∀ s : State, Ready s →
    ∃ a t, exec .initializeDisplay s = .next a ∧ runSteps 109 a = .next t ∧
      busRun [.wait 2000]
        [(Config.rsCmd, Config.cmdEntryMode), (Config.rsCmd, Config.cmdDisplayCtrl), (Config.rsCmd, Config.cmdFunctionSet)]
        (beginInit s) t

/-- R68, R131: the settle wait, then clear-display (0x01), then return-home (0x02); at least 2382 microseconds. -/
def Obligations.ClearDisplaySendsClearThenHome : Prop :=
  (∀ (A B : Byte) (pl : List Byte), decodeRequest (requestWord 0x9 A B) pl = .ok .clearDisplay pl) ∧
  (∀ m : Bool, leastTime (eventsOf (entriesOf m .clearDisplay)) = 2382) ∧
  ∀ s : State, Ready s →
    ∃ a t, exec .clearDisplay s = .next a ∧ runSteps 73 a = .next t ∧
      busRun [.wait 2000] [(Config.rsCmd, 0x01), (Config.rsCmd, 0x02)] s t

/-- R132, R138: the CGRAM address is the slot masked to 3 bits, then the eight glyph bytes whole, row 0 first; at least 1719
microseconds. -/
def Obligations.CreateCustomCharSendsGlyph : Prop :=
  (∀ (A B : Byte) (g : Glyph) (pl : List Byte),
    decodeRequest (requestWord 0xA A B) (glyphBytes g ++ pl) = .ok (.createCustomChar A.toNat g) pl) ∧
  (∀ (m : Bool) (slot : Nat) (g : Glyph), leastTime (eventsOf (entriesOf m (.createCustomChar slot g))) = 1719) ∧
  ∀ (s : State) (slot : Nat) (g : Glyph), Ready s →
    ∃ a t, exec (.createCustomChar slot g) s = .next a ∧ runSteps 324 a = .next t ∧
      busRun []
        [(Config.rsCmd, BitVec.ofNat 8 (0x40 ||| (slot &&& 0x07))), (Config.rsData, g.row0), (Config.rsData, g.row1),
          (Config.rsData, g.row2), (Config.rsData, g.row3), (Config.rsData, g.row4), (Config.rsData, g.row5),
          (Config.rsData, g.row6), (Config.rsData, g.row7)]
        s t

/-- R133: `DRAW_STR` on an N-byte text makes exactly N data writes, in order; at least 191 N microseconds. -/
def Obligations.DrawStrSendsEachByte : Prop :=
  (∀ text pl : List Byte, text.length < 2 ^ 16 →
    decodeRequest (textWord text.length) (text ++ pl) = .ok (.drawStr text) pl) ∧
  (∀ (m : Bool) (text : List Byte), leastTime (eventsOf (entriesOf m (.drawStr text))) = 191 * text.length) ∧
  ∀ (s : State) (text : List Byte), Ready s →
    ∃ a t, exec (.drawStr text) s = .next a ∧ runSteps (36 * text.length) a = .next t ∧
      busRun [] (text.map (fun b => (Config.rsData, b))) s t

/-- An empty `DRAW_STR` is complete at acceptance: no event, no state change (45_display_operations.md, R140). -/
def Obligations.EmptyDrawStrChangesNothing : Prop :=
  ∀ s : State, s.configured = true → s.busy = false → s.seq = [] → s.oper = none → exec (.drawStr []) s = .next s

/-! ### Refusals and holds -/

/-- R156: an operation other than `SETUP` is refused while `CONFIGURED = 0`. -/
def Obligations.OperationBeforeSetupRefused : Prop :=
  ∀ (i : Instr) (s : State), isOperation i = true → isSetup i = false →
    s.configured = false → s.busy = false → exec i s = .refused .notConfigured

/-- A second requester's operation, forced in while `BUSY`, is refused (60_exceptions.md section 5, R157); log 20. -/
def Obligations.ForcedRequestRefused : Prop :=
  ∀ (i : Instr) (s : State), isOperation i = true → s.busy = true → exec i s = .refused .requestWhileBusy

/-- A strobe started with `EN` high is refused (93_implementation_defined.md U10; log 21); the two operations that strobe
nothing are not. -/
def Obligations.StrobeWithEnableHighRefused : Prop :=
  (∀ (i : Instr) (s : State), isOperation i = true → isSetup i = false → (∀ b, i ≠ .transmit b) → i ≠ .drawStr [] →
    s.configured = true → s.busy = false → s.line.en = true → exec i s = .refused .enableHigh) ∧
  (∀ (b : Byte) (s : State), s.configured = true → s.busy = false → ∃ a, exec (.transmit b) s = .next a)

/-- R158: the block is ready exactly when `BUSY = 0`, and while `BUSY` a step goes on and leaves the host's requests and
payload at the port. -/
def Obligations.RequestHeldWhileBusy : Prop :=
  (∀ s : State, s.ports.reqReady = !s.busy) ∧
  ∀ s : State, s.busy = true → ∃ t, step s = .next t ∧ t.requests = s.requests ∧ t.payload = s.payload

/-- R57: a request with operation number 0xC to 0xF is refused by name. -/
def Obligations.ReservedOperationRefused : Prop :=
  ∀ (s : State) (w : ReqWord) (more : List ReqWord), s.lcd.pending = none → s.busy = false → s.requests = w :: more →
    (step s = .refused (.reservedOperation (opField w)) ↔ 0xC ≤ (opField w).toNat)

/-- With nothing in progress, nothing pending and no request, or one whose payload is not all there, a step changes nothing
(60_exceptions.md R163, 30_encoding.md section 2; log 23). -/
def Obligations.IdleStepChangesNothing : Prop :=
  ∀ s : State, s.lcd.pending = none → s.busy = false →
    (s.requests = [] ∨ ∃ w more n, s.requests = w :: more ∧ decodeRequest w s.payload = .payloadMissing n) →
    step s = .next s

/-- When a step stops, and why (60_exceptions.md sections 1, 5; R150, R156; 30_encoding.md R57): from a state that keeps the
invariant a step goes on, unless the block is idle and the request at the port is before `SETUP` or has a reserved operation
number. No step faults, none is refused for any other reason. -/
def Obligations.StepStopsOnlyByName : Prop :=
  ∀ s : State, Inv s →
    (∃ t, step s = .next t) ∨
    (s.lcd.pending = none ∧ s.busy = false ∧ ∃ w more, s.requests = w :: more ∧
      ((s.configured = false ∧ 0x0 < (opField w).toNat ∧ (opField w).toNat ≤ 0xB ∧ step s = .refused .notConfigured) ∨
        (0xC ≤ (opField w).toNat ∧ step s = .refused (.reservedOperation (opField w)))))

/-! ### A step runs the decoded instruction -/

/-- The request at the port is decoded and run, its word and payload bytes leaving the port (30_encoding.md section 2). -/
def Obligations.StepRunsDecodedRequest : Prop :=
  ∀ (s : State) (w : ReqWord) (more : List ReqWord) (i : Instr) (rest : List Byte),
    s.lcd.pending = none → s.busy = false → s.requests = w :: more → decodeRequest w s.payload = .ok i rest →
    step s = exec i { s with requests := more, payload := rest }

/-- A command byte the controller has taken is decoded and run (20_memory.md section 6; log 8). That it is taken as one 8-bit
transfer, whatever the bus width bit says, is the model's (PRESUMED, log 14). -/
def Obligations.StepRunsDecodedCommand : Prop :=
  ∀ (s : State) (b : Byte) (i : Instr),
    s.lcd.pending = some ⟨Config.rsCmd, Config.rwWrite, b⟩ → decodeCommand b = .ok i →
    step s = exec i { s with lcd := { s.lcd with pending := none } }

/-- `withFetchWord` places a table row's instruction where the next step runs exactly it, with no other change that the
instruction sees (log 23). -/
def Obligations.TableWordIsFetchedNext : Prop :=
  (∀ (s : State) (w : Nat) (i : Instr), decodeTableWord 8 w = some i →
    step (s.withFetchWord 8 w) = exec i { s with lcd := { s.lcd with pending := none } }) ∧
  (∀ (s : State) (w : Nat) (i : Instr), decodeTableWord 24 w = some i →
    step (s.withFetchWord 24 w) =
      exec i { s with busy := false, seq := [], oper := none, lcd := { s.lcd with pending := none } })

/-! ### Encodings -/

/-- Words written out from the spec's encodings (95_test_vectors.md sections 2.5 to 2.8, 30_encoding.md section 7). -/
def Obligations.WrittenOutWordsDecode : Prop :=
  decodeRequest 0x0ABFE [10, 11, 12, 13, 14, 15] = .ok (.setup ⟨10, 11, 12, 13, 14, 15⟩ false) [] ∧
  decodeRequest 0x1A500 [] = .ok (.transmit 0xA5) [] ∧
  decodeRequest 0x20000 [] = .ok .pulseEnable [] ∧
  decodeRequest 0x3A5FF [] = .ok (.writeCommand 0xA5) [] ∧
  decodeRequest 0x5FF00 [] = .ok (.setDdramAddr 255) [] ∧
  decodeRequest 0x70501 [] = .ok (.goto 5 1) [] ∧
  decodeRequest 0xB0002 [0x48, 0x69] = .ok (.drawStr [0x48, 0x69]) [] ∧
  decodeRequest 0xD1234 [] = .reservedOperation 0xD ∧
  decodeCommand 0x06 = .ok (.lcdEntryModeSet true false) ∧
  decodeCommand 0x0C = .ok (.lcdDisplayControl true false false) ∧
  decodeCommand 0x38 = .ok (.lcdFunctionSet true true false) ∧
  decodeCommand 0x43 = .ok (.lcdSetCgramAddr 3) ∧
  decodeCommand 0xC5 = .ok (.lcdSetDdramAddr 0x45)

/-- Decoding an encoded well-formed instruction gives it back, and leaves the payload bytes that follow. -/
def Obligations.DecodeOfEncode : Prop :=
  ∀ (i : Instr) (more : List Byte), i.wf = true →
    match encode i with
    | .request w payload => decodeRequest w (payload ++ more) = .ok i more
    | .command b => decodeCommand b = .ok i

/-- Decoding gives well-formed instructions of the right kind, and a command byte is the encoding of what it decodes to: each
command byte has one meaning (30_encoding.md sections 2, 7). -/
def Obligations.EncodeOfDecode : Prop :=
  (∀ (w : ReqWord) (pl rest : List Byte) (i : Instr), decodeRequest w pl = .ok i rest →
    i.wf = true ∧ isOperation i = true ∧ ∃ taken, pl = taken ++ rest ∧ taken.length = payloadCount w) ∧
  (∀ (b : Byte) (i : Instr), decodeCommand b = .ok i → encode i = .command b ∧ isOperation i = false)

/-! ### The LCD controller. These rest on the controller model the spec marks as general knowledge (20_memory.md section 6, R44
second half; 93_implementation_defined.md G5; log 9), and on when the model lets that model speak: from `INITIALIZE_DISPLAY` on, and
of DDRAM and CGRAM only while the premise "initialised once, first" holds (70_reset_and_hazards.md sections 2, 3; U2, U13;
log 36). -/

/-- Clear display, return home and the two address commands, once `INITIALIZE_DISPLAY` has begun (G5, logs 9, 36): the address
counter, the RAM select and, for clear, every byte of DDRAM; nothing else. In 1-line mode the cells clear fills are the model's
choice (log 12). -/
def Obligations.AddressCommandsOfController : Prop :=
  ∀ s : State, s.lcd.initBegun = true →
    (∃ t, exec .lcdClearDisplay s = .next t ∧
      t = { s with lcd := { s.lcd with
        ac := 0, sel := .ddram, ddram := t.lcd.ddram, cgram := knownMemory s s.lcd.cgram } } ∧
      ∀ x, t.lcd.ddram.read x =
        if s.lcd.order ≠ .broken ∧ (x ≤ 0x27 ∨ (0x40 ≤ x ∧ x ≤ 0x67)) then some 0x20 else none) ∧
    exec .lcdReturnHome s = .next { s with lcd := { s.lcd with
      ac := 0, sel := .ddram, ddram := knownMemory s s.lcd.ddram, cgram := knownMemory s s.lcd.cgram } } ∧
    (∀ addr, exec (.lcdSetCgramAddr addr) s = .next { s with lcd := { s.lcd with
      ac := addr.setWidth 7, sel := .cgram
      ddram := knownMemory s s.lcd.ddram, cgram := knownMemory s s.lcd.cgram } }) ∧
    (∀ addr, exec (.lcdSetDdramAddr addr) s = .next { s with lcd := { s.lcd with
      ac := addr, sel := .ddram
      ddram := knownMemory s s.lcd.ddram, cgram := knownMemory s s.lcd.cgram } })

/-- The three mode commands, once `INITIALIZE_DISPLAY` has begun, set their mode bits only (G5, logs 9, 36). -/
def Obligations.ModeCommandsOfController : Prop :=
  ∀ s : State, s.lcd.initBegun = true →
    (∀ i sh, exec (.lcdEntryModeSet i sh) s = .next { s with lcd := { s.lcd with
      inc := i, shift := sh
      ddram := knownMemory s s.lcd.ddram, cgram := knownMemory s s.lcd.cgram } }) ∧
    (∀ d c b, exec (.lcdDisplayControl d c b) s = .next { s with lcd := { s.lcd with
      displayOn := d, cursorOn := c, blinkOn := b
      ddram := knownMemory s s.lcd.ddram, cgram := knownMemory s s.lcd.cgram } }) ∧
    (∀ l n f, exec (.lcdFunctionSet l n f) s = .next { s with lcd := { s.lcd with
      bus8 := l, twoLine := n, font10 := f
      ddram := knownMemory s s.lcd.ddram, cgram := knownMemory s s.lcd.cgram } })

/-- Before `INITIALIZE_DISPLAY` has begun nothing is assumed of the controller (70_reset_and_hazards.md sections 2, 3, R172, R180; U2,
U13; log 36): every command, and every transfer a step executes, leaves its registers at free values and no byte of its memories
known, and the premise "initialised once, first" has failed. -/
def Obligations.ControllerUnknownBeforeInitialize : Prop :=
  ∀ s : State, s.lcd.initBegun = false →
    (∀ i, isOperation i = false → exec i s = .next { s with
      lcd := { s.lcd.unspecified s.receiverDraws with order := .broken }
      receiverDraws := s.receiverDraws + 1 }) ∧
    (∀ tr, s.lcd.pending = some tr → step s = .next { s with
      lcd := { s.lcd.unspecified s.receiverDraws with order := .broken }
      receiverDraws := s.receiverDraws + 1 })

/-- The controller always goes on, whatever it takes, and its step changes the controller only (10_state.md section 9;
log 11). Once the premise "initialised once, first" has failed, no byte of its memories is known after the step (U2;
log 36). -/
def Obligations.ControllerStepChangesControllerOnly : Prop :=
  ∀ (s : State) (tr : Transfer), s.lcd.pending = some tr →
    ∃ t, step s = .next t ∧ t.lcd.pending = none ∧ t = { s with lcd := t.lcd, receiverDraws := t.receiverDraws } ∧
      t.lcd.initBegun = s.lcd.initBegun ∧
      t.lcd.order = (if s.lcd.initBegun = true then s.lcd.order else .broken) ∧
      (t.lcd.order = .broken → t.lcd.ddram = [] ∧ t.lcd.cgram = [])

/-- A data byte in DDRAM (G5, logs 9, 36): once `INITIALIZE_DISPLAY` has begun, in a matched configuration with the entry mode
incrementing and the address counter on a DDRAM cell, `WRITE_DATA(b)` stores `b` there and nowhere else, and the counter advances,
from 0x27 to 0x40 and from 0x67 to 0x00 in 2-line mode. In 1-line mode the cells and the advance are the model's choice (log 12);
that the byte lands there whatever the other mode bits are, the 8-bit bus not selected included, is PRESUMED (log 14). -/
def Obligations.WriteDataStoresInDdram : Prop :=
  ∀ (s : State) (b : Byte), Ready s → matched s = true → s.lcd.initBegun = true → s.lcd.sel = .ddram → s.lcd.inc = true →
    (s.lcd.ac.toNat ≤ 0x27 ∨ (0x40 ≤ s.lcd.ac.toNat ∧ s.lcd.ac.toNat ≤ 0x67)) →
    ∃ a t, exec (.writeData b) s = .next a ∧ runSteps 36 a = .next t ∧
      (s.lcd.order ≠ .broken →
        (∀ x, t.lcd.ddram.read x = if x = s.lcd.ac.toNat then some b else s.lcd.ddram.read x) ∧
        t.lcd.cgram = s.lcd.cgram) ∧
      t.lcd.sel = .ddram ∧
      t.lcd.ac = (if s.lcd.twoLine = true ∧ s.lcd.ac = 0x27 then 0x40
        else if s.lcd.twoLine = true ∧ s.lcd.ac = 0x67 then 0x00 else s.lcd.ac + 1)

/-- A data byte in CGRAM, once `INITIALIZE_DISPLAY` has begun (G5, logs 9, 36): stored at the 6-bit address, which wraps at
6 bits. That it lands there whatever the other mode bits are, the 8-bit bus not selected included, is PRESUMED (log 14). -/
def Obligations.WriteDataStoresInCgram : Prop :=
  ∀ (s : State) (b : Byte), Ready s → matched s = true → s.lcd.initBegun = true → s.lcd.sel = .cgram → s.lcd.inc = true →
    ∃ a t, exec (.writeData b) s = .next a ∧ runSteps 36 a = .next t ∧
      (s.lcd.order ≠ .broken →
        (∀ x, t.lcd.cgram.read x = if x = s.lcd.ac.toNat % 64 then some b else s.lcd.cgram.read x) ∧
        t.lcd.ddram = s.lcd.ddram) ∧
      t.lcd.sel = .cgram ∧ t.lcd.ac.toNat = (s.lcd.ac.toNat + 1) % 64

/-- `INITIALIZE_DISPLAY` in a matched configuration leaves the modes its three commands name (G2, G5, logs 7, 9), whatever the
controller held. That it takes the three as 8-bit transfers whatever its bus width was is PRESUMED (log 14). The first one,
before any other transfer, keeps the memories; after any other the premise "initialised once, first" has failed and no byte of
them is known (U2; log 36). -/
def Obligations.InitializeDisplaySetsControllerModes : Prop :=
  ∀ s : State, Ready s → matched s = true →
    ∃ a t, exec .initializeDisplay s = .next a ∧ runSteps 109 a = .next t ∧
      t.lcd = { s.lcd with
        inc := true, shift := false, displayOn := true, cursorOn := false, blinkOn := false, bus8 := true, twoLine := true
        font10 := false
        initBegun := true
        order := if s.lcd.order = .clean then .once else .broken
        ddram := if s.lcd.order = .clean then s.lcd.ddram else []
        cgram := if s.lcd.order = .clean then s.lcd.cgram else [] }

/-- `CREATE_CUSTOM_CHAR` in a matched configuration with the entry mode incrementing, once `INITIALIZE_DISPLAY` has begun (G5,
logs 9, 36; 20_memory.md section 4, 45_display_operations.md R137, R139): the glyph rows lie at `slot & 7` and the seven addresses
after it, and the address counter is left in CGRAM. That they land there whatever the other mode bits are, the 8-bit bus not selected
included, is PRESUMED (log 14). -/
def Obligations.GlyphRowsLandAtSlot : Prop :=
  ∀ (s : State) (slot : Nat) (g : Glyph), Ready s → matched s = true → s.lcd.initBegun = true → s.lcd.inc = true →
    ∃ a t, exec (.createCustomChar slot g) s = .next a ∧ runSteps 324 a = .next t ∧
      (s.lcd.order ≠ .broken →
        (∀ k, k < 8 → t.lcd.cgram.read (slot % 8 + k) = (glyphBytes g)[k]?) ∧
        (∀ x, x < slot % 8 ∨ slot % 8 + 8 ≤ x → t.lcd.cgram.read x = s.lcd.cgram.read x) ∧
        t.lcd.ddram = s.lcd.ddram) ∧
      t.lcd.sel = .cgram ∧ t.lcd.ac.toNat = slot % 8 + 8

/-- `GOTO` in a matched configuration, once `INITIALIZE_DISPLAY` has begun, points the address counter into DDRAM at
`(row * 64 + column) & 0x7F` (G5, logs 9, 36). That the command is taken as one 8-bit transfer whatever the bus width bit says is
PRESUMED (log 14). -/
def Obligations.GotoPointsController : Prop :=
  ∀ (s : State) (column row : Nat), Ready s → matched s = true → s.lcd.initBegun = true →
    ∃ a t, exec (.goto column row) s = .next a ∧ runSteps 37 a = .next t ∧
      t.lcd.sel = .ddram ∧ t.lcd.ac.toNat = (row * 64 + column) % 128 ∧
      (s.lcd.order ≠ .broken → t.lcd.ddram = s.lcd.ddram ∧ t.lcd.cgram = s.lcd.cgram)

/-! ### Whole-machine rules -/

/-- The invariant holds after reset. -/
def Obligations.InvariantHoldsAtReset : Prop := Inv State.reset

/-- Every step keeps the invariant: `SEQ` is the rest of the operation in progress (10_state.md R20, the list form and the
counter form are equal), the lines outside `SETUP` keep the discipline of R176 and every operation ends at the levels of R29, the
controller's memories keep their canonical form, and a byte of them is known only after `INITIALIZE_DISPLAY` has begun and while the
premise "initialised once, first" holds (U2; log 36). -/
def Obligations.StepKeepsInvariant : Prop := ∀ s t : State, Inv s → step s = .next t → Inv t

/-- `EN` is low while a byte is shifted (70_reset_and_hazards.md section 3, R176), in every state any number of steps reaches
from a state that keeps the invariant: outside `SETUP`, an event on a shift line, `RS` or `RW` is emitted only while `EN` is
low, and one on `SRDAT` only while the clock is low too. -/
def Obligations.EnableLowWhileShifting : Prop :=
  ∀ (n : Nat) (s t : State), Inv s → runSteps n s = .next t →
    ∀ (e : SeqEntry) (rest : List SeqEntry) (r : Role) (v : Bool), t.seq = e :: rest → t.busy = true →
      (∀ i, t.oper = some i → isSetup i = false) → e.event = .set r v →
      (r ≠ .en → t.line.en = false) ∧ (r = .srdat → t.line.srclk = false)

/-- The idle levels (10_state.md section 10, R29): whenever `SETUP` has completed and nothing is in progress, in every state
any number of steps reaches from a state that keeps the invariant. -/
def Obligations.IdleLevelsBetweenOperations : Prop :=
  ∀ (n : Nat) (s t : State), Inv s → runSteps n s = .next t → t.configured = true → t.busy = false →
    t.line.srclk = true ∧ t.line.srclr = true ∧ t.line.en = false ∧ t.line.rw = Config.rwWrite ∧ t.seq = []

/-- The trace only grows, by at most one event a step (20_memory.md section 7, R45), and no event is lost, repeated or reordered:
an event emitted is the first of `SEQ` and leaves it, and a step that emits none leaves `SEQ` as it is or accepts an operation, whose
whole list `SEQ` then is. -/
def Obligations.TraceGrowsByOneEvent : Prop :=
  ∀ s t : State, step s = .next t →
    (t.trace = s.trace ∧
      (t.seq = s.seq ∨ (s.busy = false ∧
        ∃ i u, isOperation i = true ∧ fetch s = .run i u ∧ t.seq = entriesOf s.mirrored i))) ∨
    ∃ e rest, s.busy = true ∧ s.seq = e :: rest ∧ t.trace = s.trace ++ [e.event] ∧ t.seq = rest

/-- The block's trace does not depend on the controller (20_memory.md section 6): two states that agree on the block, and differ
in the shift register, the wiring and everything the controller holds, run alike on the block for any number of steps. `SameBlock`
asks equal counts of free line levels drawn (`levelDraws`): inside `SETUP`, where the levels are free values, the two runs' lines
agree for that reason only, and nothing is to be concluded from it of two real blocks (log 24). -/
def Obligations.BlockIndependentOfReceivers : Prop :=
  ∀ (n : Nat) (s s' : State), SameBlock s s' → SameBlockOutcome (runSteps n s) (runSteps n s')

/-! ### Views -/

/-- What the host and the pins see: the fields of `CFG` (10_state.md section 5, R22: `MIRRORED` at bit 0, `PHYS[r]` from bit 8 + 8 r,
`LOGI[r]` from bit 56 + 8 r) and the output ports of R26. When `pl_ready`, `mux` and `mode` show something is the model's choice
(log 30). -/
def Obligations.ViewsShowTheState : Prop :=
  ∀ s : State,
    s.cfg.getLsbD 0 = s.mirrored ∧
    (∀ k r, roles[k]? = some r →
      s.cfg.extractLsb' (8 + 8 * k) 8 = s.phys.get r ∧ s.cfg.extractLsb' (56 + 8 * k) 8 = s.logi.get r) ∧
    s.ports.reqReady = !s.busy ∧ s.ports.busy = s.busy ∧
    s.ports.srClk = s.line.srclk ∧ s.ports.srClrN = s.line.srclr ∧ s.ports.srDat = s.line.srdat ∧
    s.ports.lcdEn = s.line.en ∧ s.ports.lcdRs = s.line.rs ∧ s.ports.lcdRw = s.line.rw ∧
    s.ports.dbgScratch = s.scratch ∧
    (s.ports.plReady = true ↔ s.busy = false ∧ ∃ w more, s.requests = w :: more ∧ 0 < payloadCount w) ∧
    (∀ p r, s.ports.mux = some (p, r) ↔ s.trace.getLast? = some (.mux p r)) ∧
    (∀ g, s.ports.mode = some g ↔ s.trace.getLast? = some (.mode g))

/-- The delay counter's load (60_exceptions.md section 8, R161): at least 1, and the least number of clock periods that lasts
at least the wait. -/
def Obligations.DelayLoadIsCeiling : Prop :=
  ∀ tClkNs us : Nat, 0 < tClkNs →
    1 ≤ delayLoad tClkNs us ∧ us * 1000 ≤ delayLoad tClkNs us * tClkNs ∧
    ∀ n, 1 ≤ n → us * 1000 ≤ n * tClkNs → delayLoad tClkNs us ≤ n
end

