-- ==== Sys2Proof/Laws/Encoding.lean ====
section
/-! SUPPORT. The fields of the request words that encoding builds, and taking payload bytes: what decoding reads back. -/

namespace Sys2Proof

/-- The bits of a request word (30_encoding.md R52). -/
theorem getLsbD_requestWord (op : BitVec 4) (a b : Byte) (j : Nat) :
    (requestWord op a b).getLsbD j =
      if j < 8 then b.getLsbD j else if j - 8 < 8 then a.getLsbD (j - 8) else op.getLsbD (j - 8 - 8) := by
  refine (BitVec.getLsbD_append (x := op ++ a) (y := b)).trans ?_
  rw [BitVec.getLsbD_append]

@[simp] theorem opField_requestWord (op : BitVec 4) (a b : Byte) : opField (requestWord op a b) = op := by
  apply BitVec.eq_of_getLsbD_eq
  intro i hi
  have h1 : ¬ (16 + i < 8) := by omega
  have h2 : ¬ (16 + i - 8 < 8) := by omega
  have h3 : 16 + i - 8 - 8 = i := by omega
  rw [opField, BitVec.getLsbD_extractLsb', getLsbD_requestWord, if_neg h1, if_neg h2, h3]
  simp [hi]

@[simp] theorem fieldA_requestWord (op : BitVec 4) (a b : Byte) : fieldA (requestWord op a b) = a := by
  apply BitVec.eq_of_getLsbD_eq
  intro i hi
  have h1 : ¬ (8 + i < 8) := by omega
  have h2 : 8 + i - 8 = i := by omega
  rw [fieldA, BitVec.getLsbD_extractLsb', getLsbD_requestWord, if_neg h1, h2, if_pos hi]
  simp [hi]

@[simp] theorem fieldB_requestWord (op : BitVec 4) (a b : Byte) : fieldB (requestWord op a b) = b := by
  apply BitVec.eq_of_getLsbD_eq
  intro i hi
  rw [fieldB, BitVec.getLsbD_extractLsb', getLsbD_requestWord, Nat.zero_add, if_pos hi]
  simp [hi]

@[simp] theorem opField_textWord (n : Nat) : opField (textWord n) = 0xB := by
  unfold opField textWord
  apply BitVec.eq_of_getLsbD_eq
  intro i hi
  simp only [BitVec.getLsbD_extractLsb', BitVec.getLsbD_append]
  simp [hi]

@[simp] theorem lengthField_textWord {n : Nat} (h : n < 2 ^ 16) : lengthField (textWord n) = n := by
  unfold lengthField textWord
  have : BitVec.extractLsb' 0 16 ((0xB : BitVec 4) ++ BitVec.ofNat 16 n) = BitVec.ofNat 16 n := by
    apply BitVec.eq_of_getLsbD_eq
    intro i hi
    simp only [BitVec.getLsbD_extractLsb', BitVec.getLsbD_append]
    simp [hi]
  rw [this, BitVec.toNat_ofNat, Nat.mod_eq_of_lt h]

/-- A text followed by more payload is taken whole, and the rest left. -/
theorem takeBytes_append (xs more : List Byte) : takeBytes xs.length (xs ++ more) = some (xs, more) := by
  induction xs with
  | nil => rfl
  | cons x xs ih => simp [takeBytes, ih]

/-- What `takeBytes` takes is the front of what is there. -/
theorem takeBytes_some {n : Nat} {pl xs rest : List Byte} (h : takeBytes n pl = some (xs, rest)) :
    pl = xs ++ rest ∧ xs.length = n := by
  induction n generalizing pl xs with
  | zero => simp only [takeBytes] at h; cases h; exact ⟨rfl, rfl⟩
  | succ n ih =>
    cases pl with
    | nil => simp [takeBytes] at h
    | cons b more =>
      simp only [takeBytes] at h
      split at h
      · rename_i he
        cases h
        obtain ⟨rfl, rfl⟩ := ih he
        exact ⟨rfl, rfl⟩
      · cases h
/-- A length that fits gives the payload count of `DRAW_STR` (R54). -/
theorem payloadCount_textWord {n : Nat} (h : n < 2 ^ 16) : payloadCount (textWord n) = n := by
  unfold payloadCount
  rw [opField_textWord]
  exact lengthField_textWord h

/-! ### Slices of words put together from fields (for `CFG`, 10_state.md R22) -/

theorem extract_append_low {w v : Nat} (x : BitVec w) (y : BitVec v) : (x ++ y).extractLsb' 0 v = y := by
  apply BitVec.eq_of_getLsbD_eq
  intro i hi
  rw [BitVec.getLsbD_extractLsb', BitVec.getLsbD_append]
  simp [hi]

theorem extract_append_high {w v st : Nat} (n : Nat) (h : v ≤ st) (x : BitVec w) (y : BitVec v) :
    (x ++ y).extractLsb' st n = x.extractLsb' (st - v) n := by
  apply BitVec.eq_of_getLsbD_eq
  intro i hi
  rw [BitVec.getLsbD_extractLsb', BitVec.getLsbD_extractLsb', BitVec.getLsbD_append]
  have hv : ¬ st + i < v := by omega
  simp [hi, hv]
  congr 1
  omega

end Sys2Proof
end

