-- ==== Sys2Proof/Laws/Memory.lean ====
section
/-! SUPPORT. The laws of the controller's memories: read after write, and that every operation keeps the canonical form. -/

namespace Sys2Proof.Machine

/-- Reading after a store: the byte stored at its address, every other address as before. -/
theorem Memory.read_write (m : Memory) (a x : Nat) (v : Byte) :
    (Memory.write m a v).read x = if x = a then some v else Memory.read m x := by
  induction m with
  | nil => simp [Memory.write, Memory.read]
  | cons c rest ih =>
    obtain ⟨a', v'⟩ := c
    simp only [Memory.write]
    split
    · simp [Memory.read]
    · split
      · simp only [Memory.read]
        split <;> simp_all
      · simp only [Memory.read, ih]
        split <;> split <;> simp_all

theorem Memory.wfFrom_mono {low low' : Nat} {m : Memory} (h : Memory.wfFrom low' m = true) (hl : low ≤ low') :
    Memory.wfFrom low m = true := by
  cases m with
  | nil => rfl
  | cons c rest =>
    obtain ⟨a, v⟩ := c
    simp only [Memory.wfFrom, Bool.and_eq_true, decide_eq_true_eq] at h ⊢
    exact ⟨by omega, h.2⟩

theorem Memory.wfFrom_write {low a : Nat} {m : Memory} (v : Byte) (h : Memory.wfFrom low m = true) (ha : low ≤ a) :
    Memory.wfFrom low (Memory.write m a v) = true := by
  induction m generalizing low with
  | nil => simp [Memory.write, Memory.wfFrom, ha]
  | cons c rest ih =>
    obtain ⟨a', v'⟩ := c
    simp only [Memory.wfFrom, Bool.and_eq_true, decide_eq_true_eq] at h
    simp only [Memory.write]
    split
    · simp only [Memory.wfFrom, Bool.and_eq_true, decide_eq_true_eq]
      exact ⟨ha, by omega, h.2⟩
    · split
      · subst a
        simp only [Memory.wfFrom, Bool.and_eq_true, decide_eq_true_eq]
        exact ⟨ha, h.2⟩
      · simp only [Memory.wfFrom, Bool.and_eq_true, decide_eq_true_eq]
        exact ⟨h.1, ih h.2 (by omega)⟩

/-- A store keeps the canonical form. -/
theorem Memory.wf_write {m : Memory} (a : Nat) (v : Byte) (h : Memory.wf m = true) :
    Memory.wf (Memory.write m a v) = true :=
  Memory.wfFrom_write v h (Nat.zero_le a)

/-- The addresses listed after a store are the one stored to and those listed before. -/
theorem Memory.mem_write {m : Memory} {a : Nat} {v : Byte} {c : Host.Cell} (h : c ∈ Memory.write m a v) :
    c.1 = a ∨ c ∈ m := by
  induction m with
  | nil => simp_all [Memory.write]
  | cons c' rest ih =>
    obtain ⟨a', v'⟩ := c'
    simp only [Memory.write] at h
    split at h
    · simp only [List.mem_cons] at h ⊢
      rcases h with rfl | h | h
      · exact .inl rfl
      · exact .inr (.inl h)
      · exact .inr (.inr h)
    · split at h
      · simp only [List.mem_cons] at h ⊢
        rcases h with rfl | h
        · exact .inl rfl
        · exact .inr (.inr h)
      · simp only [List.mem_cons] at h ⊢
        rcases h with h | h
        · exact .inr (.inl h)
        · exact (ih h).imp id .inr

/-- DDRAM after clear display is in canonical form, and lists exactly the cells that exist. -/
theorem Memory.read_append (m m' : Memory) (x : Nat) : Memory.read (m ++ m') x = (m.read x).or (m'.read x) := by
  induction m with
  | nil => rfl
  | cons c m ih => simp only [List.cons_append, Memory.read, ih]; split <;> rfl

theorem Memory.read_run (a n : Nat) (v : Byte) (x : Nat) :
    (Memory.run a n v).read x = if a ≤ x ∧ x < a + n then some v else none := by
  induction n generalizing a with
  | zero => simp [Memory.run, Memory.read]
  | succ n ih =>
    simp only [Memory.run, Memory.read, ih]
    split
    · rw [if_pos (by omega)]
    · congr 1
      simp only [eq_iff_iff]
      omega

/-- Every cell of a cleared DDRAM reads 0x20, and no other address has a value. -/
theorem read_blankDdram (x : Nat) :
    blankDdram.read x = if x ≤ 0x27 ∨ (0x40 ≤ x ∧ x ≤ 0x67) then some 0x20 else none := by
  rw [blankDdram, Memory.read_append, Memory.read_run, Memory.read_run]
  by_cases h1 : x ≤ 0x27
  · simp [h1, show x < 40 by omega]
  · by_cases h2 : 0x40 ≤ x ∧ x ≤ 0x67
    · simp [h1, h2.1, h2.2, show ¬ x < 40 by omega, show x < 104 by omega]
    · rw [if_neg (by omega), if_neg (by omega), if_neg (by omega)]; rfl

theorem blankDdram_wf : Memory.wf blankDdram = true := by decide

theorem blankDdram_cells : ∀ c ∈ blankDdram, ddramCell c.1 = true := by decide

end Sys2Proof.Machine
end

