-- ==== Sys2Proof/Laws/State.lean ====
section
/-! SUPPORT. One lemma per field of State for each named update, so that no proof unfolds a record update; and the values of
`PerRole.get` after `PerRole.set`. -/

namespace Sys2Proof

/-! ### One value per role -/

@[simp] theorem PerRole.get_set_same {α : Type} (p : PerRole α) (r : Role) (v : α) : (p.set r v).get r = v := by
  cases r <;> rfl

theorem PerRole.get_set_other {α : Type} (p : PerRole α) {r r' : Role} (v : α) (h : r' ≠ r) :
    (p.set r v).get r' = p.get r' := by
  cases r <;> cases r' <;> first | rfl | exact absurd rfl h

namespace Machine

/-! ### `stageByte` -/

@[simp] theorem stageByte_line (b : Byte) (s : State) : (stageByte b s).line = s.line := rfl
@[simp] theorem stageByte_phys (b : Byte) (s : State) : (stageByte b s).phys = s.phys := rfl
@[simp] theorem stageByte_logi (b : Byte) (s : State) : (stageByte b s).logi = s.logi := rfl
@[simp] theorem stageByte_scratch (b : Byte) (s : State) : (stageByte b s).scratch = b := rfl
@[simp] theorem stageByte_mirrored (b : Byte) (s : State) : (stageByte b s).mirrored = s.mirrored := rfl
@[simp] theorem stageByte_configured (b : Byte) (s : State) : (stageByte b s).configured = s.configured := rfl
@[simp] theorem stageByte_busy (b : Byte) (s : State) : (stageByte b s).busy = s.busy := rfl
@[simp] theorem stageByte_seq (b : Byte) (s : State) : (stageByte b s).seq = s.seq := rfl
@[simp] theorem stageByte_oper (b : Byte) (s : State) : (stageByte b s).oper = s.oper := rfl
@[simp] theorem stageByte_requests (b : Byte) (s : State) : (stageByte b s).requests = s.requests := rfl
@[simp] theorem stageByte_payload (b : Byte) (s : State) : (stageByte b s).payload = s.payload := rfl
@[simp] theorem stageByte_stages (b : Byte) (s : State) : (stageByte b s).stages = s.stages := rfl
@[simp] theorem stageByte_wiring (b : Byte) (s : State) : (stageByte b s).wiring = s.wiring := rfl
@[simp] theorem stageByte_lcd (b : Byte) (s : State) : (stageByte b s).lcd = s.lcd := rfl
@[simp] theorem stageByte_trace (b : Byte) (s : State) : (stageByte b s).trace = s.trace := rfl
@[simp] theorem stageByte_received (b : Byte) (s : State) : (stageByte b s).received = s.received := rfl
@[simp] theorem stageByte_levelDraws (b : Byte) (s : State) : (stageByte b s).levelDraws = s.levelDraws := rfl
@[simp] theorem stageByte_receiverDraws (b : Byte) (s : State) : (stageByte b s).receiverDraws = s.receiverDraws := rfl

/-! ### `setConfigured` -/

@[simp] theorem setConfigured_line (s : State) : (setConfigured s).line = s.line := rfl
@[simp] theorem setConfigured_phys (s : State) : (setConfigured s).phys = s.phys := rfl
@[simp] theorem setConfigured_logi (s : State) : (setConfigured s).logi = s.logi := rfl
@[simp] theorem setConfigured_scratch (s : State) : (setConfigured s).scratch = s.scratch := rfl
@[simp] theorem setConfigured_mirrored (s : State) : (setConfigured s).mirrored = s.mirrored := rfl
@[simp] theorem setConfigured_configured (s : State) : (setConfigured s).configured = true := rfl
@[simp] theorem setConfigured_busy (s : State) : (setConfigured s).busy = s.busy := rfl
@[simp] theorem setConfigured_seq (s : State) : (setConfigured s).seq = s.seq := rfl
@[simp] theorem setConfigured_oper (s : State) : (setConfigured s).oper = s.oper := rfl
@[simp] theorem setConfigured_requests (s : State) : (setConfigured s).requests = s.requests := rfl
@[simp] theorem setConfigured_payload (s : State) : (setConfigured s).payload = s.payload := rfl
@[simp] theorem setConfigured_stages (s : State) : (setConfigured s).stages = s.stages := rfl
@[simp] theorem setConfigured_wiring (s : State) : (setConfigured s).wiring = s.wiring := rfl
@[simp] theorem setConfigured_lcd (s : State) : (setConfigured s).lcd = s.lcd := rfl
@[simp] theorem setConfigured_trace (s : State) : (setConfigured s).trace = s.trace := rfl
@[simp] theorem setConfigured_received (s : State) : (setConfigured s).received = s.received := rfl
@[simp] theorem setConfigured_levelDraws (s : State) : (setConfigured s).levelDraws = s.levelDraws := rfl
@[simp] theorem setConfigured_receiverDraws (s : State) : (setConfigured s).receiverDraws = s.receiverDraws := rfl

/-! ### `finish` -/

@[simp] theorem finish_line (s : State) : (finish s).line = s.line := rfl
@[simp] theorem finish_phys (s : State) : (finish s).phys = s.phys := rfl
@[simp] theorem finish_logi (s : State) : (finish s).logi = s.logi := rfl
@[simp] theorem finish_scratch (s : State) : (finish s).scratch = s.scratch := rfl
@[simp] theorem finish_mirrored (s : State) : (finish s).mirrored = s.mirrored := rfl
@[simp] theorem finish_configured (s : State) : (finish s).configured = s.configured := rfl
@[simp] theorem finish_busy (s : State) : (finish s).busy = false := rfl
@[simp] theorem finish_seq (s : State) : (finish s).seq = s.seq := rfl
@[simp] theorem finish_oper (s : State) : (finish s).oper = none := rfl
@[simp] theorem finish_requests (s : State) : (finish s).requests = s.requests := rfl
@[simp] theorem finish_payload (s : State) : (finish s).payload = s.payload := rfl
@[simp] theorem finish_stages (s : State) : (finish s).stages = s.stages := rfl
@[simp] theorem finish_wiring (s : State) : (finish s).wiring = s.wiring := rfl
@[simp] theorem finish_lcd (s : State) : (finish s).lcd = s.lcd := rfl
@[simp] theorem finish_trace (s : State) : (finish s).trace = s.trace := rfl
@[simp] theorem finish_received (s : State) : (finish s).received = s.received := rfl
@[simp] theorem finish_levelDraws (s : State) : (finish s).levelDraws = s.levelDraws := rfl
@[simp] theorem finish_receiverDraws (s : State) : (finish s).receiverDraws = s.receiverDraws := rfl

/-! ### `clearPending` -/

@[simp] theorem clearPending_line (s : State) : (clearPending s).line = s.line := rfl
@[simp] theorem clearPending_phys (s : State) : (clearPending s).phys = s.phys := rfl
@[simp] theorem clearPending_logi (s : State) : (clearPending s).logi = s.logi := rfl
@[simp] theorem clearPending_scratch (s : State) : (clearPending s).scratch = s.scratch := rfl
@[simp] theorem clearPending_mirrored (s : State) : (clearPending s).mirrored = s.mirrored := rfl
@[simp] theorem clearPending_configured (s : State) : (clearPending s).configured = s.configured := rfl
@[simp] theorem clearPending_busy (s : State) : (clearPending s).busy = s.busy := rfl
@[simp] theorem clearPending_seq (s : State) : (clearPending s).seq = s.seq := rfl
@[simp] theorem clearPending_oper (s : State) : (clearPending s).oper = s.oper := rfl
@[simp] theorem clearPending_requests (s : State) : (clearPending s).requests = s.requests := rfl
@[simp] theorem clearPending_payload (s : State) : (clearPending s).payload = s.payload := rfl
@[simp] theorem clearPending_stages (s : State) : (clearPending s).stages = s.stages := rfl
@[simp] theorem clearPending_wiring (s : State) : (clearPending s).wiring = s.wiring := rfl
@[simp] theorem clearPending_lcd (s : State) : (clearPending s).lcd = { s.lcd with pending := none } := rfl
@[simp] theorem clearPending_trace (s : State) : (clearPending s).trace = s.trace := rfl
@[simp] theorem clearPending_received (s : State) : (clearPending s).received = s.received := rfl
@[simp] theorem clearPending_levelDraws (s : State) : (clearPending s).levelDraws = s.levelDraws := rfl
@[simp] theorem clearPending_receiverDraws (s : State) : (clearPending s).receiverDraws = s.receiverDraws := rfl

/-! ### `takeTransfer` -/

@[simp] theorem takeTransfer_line (s : State) : (takeTransfer s).line = s.line := rfl
@[simp] theorem takeTransfer_phys (s : State) : (takeTransfer s).phys = s.phys := rfl
@[simp] theorem takeTransfer_logi (s : State) : (takeTransfer s).logi = s.logi := rfl
@[simp] theorem takeTransfer_scratch (s : State) : (takeTransfer s).scratch = s.scratch := rfl
@[simp] theorem takeTransfer_mirrored (s : State) : (takeTransfer s).mirrored = s.mirrored := rfl
@[simp] theorem takeTransfer_configured (s : State) : (takeTransfer s).configured = s.configured := rfl
@[simp] theorem takeTransfer_busy (s : State) : (takeTransfer s).busy = s.busy := rfl
@[simp] theorem takeTransfer_seq (s : State) : (takeTransfer s).seq = s.seq := rfl
@[simp] theorem takeTransfer_oper (s : State) : (takeTransfer s).oper = s.oper := rfl
@[simp] theorem takeTransfer_requests (s : State) : (takeTransfer s).requests = s.requests := rfl
@[simp] theorem takeTransfer_payload (s : State) : (takeTransfer s).payload = s.payload := rfl
@[simp] theorem takeTransfer_stages (s : State) : (takeTransfer s).stages = s.stages := rfl
@[simp] theorem takeTransfer_wiring (s : State) : (takeTransfer s).wiring = s.wiring := rfl
@[simp] theorem takeTransfer_lcd (s : State) : (takeTransfer s).lcd = { s.lcd with pending := some (presented s) } := rfl
@[simp] theorem takeTransfer_trace (s : State) : (takeTransfer s).trace = s.trace := rfl
@[simp] theorem takeTransfer_received (s : State) : (takeTransfer s).received = s.received ++ [presented s] := rfl
@[simp] theorem takeTransfer_levelDraws (s : State) : (takeTransfer s).levelDraws = s.levelDraws := rfl
@[simp] theorem takeTransfer_receiverDraws (s : State) : (takeTransfer s).receiverDraws = s.receiverDraws := rfl

/-! ### The controller: `unspecified`, `beginInit`, `forget` -/

@[simp] theorem Lcd.unspecified_ddram (d : Nat) (l : Lcd) : (l.unspecified d).ddram = [] := rfl
@[simp] theorem Lcd.unspecified_cgram (d : Nat) (l : Lcd) : (l.unspecified d).cgram = [] := rfl
@[simp] theorem Lcd.unspecified_pending (d : Nat) (l : Lcd) : (l.unspecified d).pending = none := rfl
@[simp] theorem Lcd.unspecified_initBegun (d : Nat) (l : Lcd) : (l.unspecified d).initBegun = l.initBegun := rfl
@[simp] theorem Lcd.unspecified_order (d : Nat) (l : Lcd) : (l.unspecified d).order = l.order := rfl

@[simp] theorem Lcd.beginInit_ac (l : Lcd) : l.beginInit.ac = l.ac := by unfold Lcd.beginInit; split <;> rfl
@[simp] theorem Lcd.beginInit_sel (l : Lcd) : l.beginInit.sel = l.sel := by unfold Lcd.beginInit; split <;> rfl
@[simp] theorem Lcd.beginInit_inc (l : Lcd) : l.beginInit.inc = l.inc := by unfold Lcd.beginInit; split <;> rfl
@[simp] theorem Lcd.beginInit_shift (l : Lcd) : l.beginInit.shift = l.shift := by unfold Lcd.beginInit; split <;> rfl
@[simp] theorem Lcd.beginInit_displayOn (l : Lcd) : l.beginInit.displayOn = l.displayOn := by unfold Lcd.beginInit; split <;> rfl
@[simp] theorem Lcd.beginInit_cursorOn (l : Lcd) : l.beginInit.cursorOn = l.cursorOn := by unfold Lcd.beginInit; split <;> rfl
@[simp] theorem Lcd.beginInit_blinkOn (l : Lcd) : l.beginInit.blinkOn = l.blinkOn := by unfold Lcd.beginInit; split <;> rfl
@[simp] theorem Lcd.beginInit_bus8 (l : Lcd) : l.beginInit.bus8 = l.bus8 := by unfold Lcd.beginInit; split <;> rfl
@[simp] theorem Lcd.beginInit_twoLine (l : Lcd) : l.beginInit.twoLine = l.twoLine := by unfold Lcd.beginInit; split <;> rfl
@[simp] theorem Lcd.beginInit_font10 (l : Lcd) : l.beginInit.font10 = l.font10 := by unfold Lcd.beginInit; split <;> rfl
@[simp] theorem Lcd.beginInit_pending (l : Lcd) : l.beginInit.pending = l.pending := by unfold Lcd.beginInit; split <;> rfl
@[simp] theorem Lcd.beginInit_initBegun (l : Lcd) : l.beginInit.initBegun = true := by
  unfold Lcd.beginInit; split <;> rfl
/-- The first `INITIALIZE_DISPLAY` keeps the memories. -/
theorem Lcd.beginInit_clean {l : Lcd} (h : l.order = .clean) : l.beginInit = { l with initBegun := true, order := .once } := by
  unfold Lcd.beginInit; rw [h]
/-- Any other leaves them without a known byte. -/
theorem Lcd.beginInit_notClean {l : Lcd} (h : l.order ≠ .clean) :
    l.beginInit = { l with initBegun := true, order := .broken, ddram := [], cgram := [] } := by
  unfold Lcd.beginInit
  split
  · exact absurd ‹_› h
  · rfl
  · rw [← ‹l.order = .broken›]

@[simp] theorem Lcd.forget_ac (l : Lcd) : l.forget.ac = l.ac := by unfold Lcd.forget; split <;> rfl
@[simp] theorem Lcd.forget_sel (l : Lcd) : l.forget.sel = l.sel := by unfold Lcd.forget; split <;> rfl
@[simp] theorem Lcd.forget_inc (l : Lcd) : l.forget.inc = l.inc := by unfold Lcd.forget; split <;> rfl
@[simp] theorem Lcd.forget_shift (l : Lcd) : l.forget.shift = l.shift := by unfold Lcd.forget; split <;> rfl
@[simp] theorem Lcd.forget_displayOn (l : Lcd) : l.forget.displayOn = l.displayOn := by unfold Lcd.forget; split <;> rfl
@[simp] theorem Lcd.forget_cursorOn (l : Lcd) : l.forget.cursorOn = l.cursorOn := by unfold Lcd.forget; split <;> rfl
@[simp] theorem Lcd.forget_blinkOn (l : Lcd) : l.forget.blinkOn = l.blinkOn := by unfold Lcd.forget; split <;> rfl
@[simp] theorem Lcd.forget_bus8 (l : Lcd) : l.forget.bus8 = l.bus8 := by unfold Lcd.forget; split <;> rfl
@[simp] theorem Lcd.forget_twoLine (l : Lcd) : l.forget.twoLine = l.twoLine := by unfold Lcd.forget; split <;> rfl
@[simp] theorem Lcd.forget_font10 (l : Lcd) : l.forget.font10 = l.font10 := by unfold Lcd.forget; split <;> rfl
@[simp] theorem Lcd.forget_pending (l : Lcd) : l.forget.pending = l.pending := by unfold Lcd.forget; split <;> rfl
@[simp] theorem Lcd.forget_initBegun (l : Lcd) : l.forget.initBegun = l.initBegun := by unfold Lcd.forget; split <;> rfl
@[simp] theorem Lcd.forget_order (l : Lcd) : l.forget.order = l.order := by unfold Lcd.forget; split <;> rfl
/-- While the premise holds nothing is forgotten. -/
theorem Lcd.forget_known {l : Lcd} (h : l.order ≠ .broken) : l.forget = l := by
  unfold Lcd.forget
  split
  · rfl
  · rfl
  · exact absurd ‹_› h
theorem Lcd.forget_broken {l : Lcd} (h : l.order = .broken) : l.forget = { l with ddram := [], cgram := [] } := by
  unfold Lcd.forget; rw [h]

theorem knownMemory_known {s : State} (h : s.lcd.order ≠ .broken) (m : Memory) : knownMemory s m = m := if_neg h
theorem knownMemory_broken {s : State} (h : s.lcd.order = .broken) (m : Memory) : knownMemory s m = [] := if_pos h
/-- What `forget` leaves, in the statements' terms. -/
theorem Lcd.forget_eq {l : Lcd} {s : State} (h : l.order = s.lcd.order) :
    l.forget = { l with ddram := knownMemory s l.ddram, cgram := knownMemory s l.cgram } := by
  by_cases hb : s.lcd.order = .broken
  · rw [Lcd.forget_broken (h.trans hb), knownMemory_broken hb, knownMemory_broken hb]
  · rw [Lcd.forget_known (h ▸ hb), knownMemory_known hb, knownMemory_known hb]

/-! ### `beginInit` -/

@[simp] theorem beginInit_line (s : State) : (beginInit s).line = s.line := rfl
@[simp] theorem beginInit_phys (s : State) : (beginInit s).phys = s.phys := rfl
@[simp] theorem beginInit_logi (s : State) : (beginInit s).logi = s.logi := rfl
@[simp] theorem beginInit_scratch (s : State) : (beginInit s).scratch = s.scratch := rfl
@[simp] theorem beginInit_mirrored (s : State) : (beginInit s).mirrored = s.mirrored := rfl
@[simp] theorem beginInit_configured (s : State) : (beginInit s).configured = s.configured := rfl
@[simp] theorem beginInit_busy (s : State) : (beginInit s).busy = s.busy := rfl
@[simp] theorem beginInit_seq (s : State) : (beginInit s).seq = s.seq := rfl
@[simp] theorem beginInit_oper (s : State) : (beginInit s).oper = s.oper := rfl
@[simp] theorem beginInit_requests (s : State) : (beginInit s).requests = s.requests := rfl
@[simp] theorem beginInit_payload (s : State) : (beginInit s).payload = s.payload := rfl
@[simp] theorem beginInit_stages (s : State) : (beginInit s).stages = s.stages := rfl
@[simp] theorem beginInit_wiring (s : State) : (beginInit s).wiring = s.wiring := rfl
@[simp] theorem beginInit_trace (s : State) : (beginInit s).trace = s.trace := rfl
@[simp] theorem beginInit_received (s : State) : (beginInit s).received = s.received := rfl
@[simp] theorem beginInit_levelDraws (s : State) : (beginInit s).levelDraws = s.levelDraws := rfl
@[simp] theorem beginInit_receiverDraws (s : State) : (beginInit s).receiverDraws = s.receiverDraws := rfl
@[simp] theorem beginInit_lcd (s : State) : (beginInit s).lcd = s.lcd.beginInit := rfl

/-! ### `unspecifyController` -/

@[simp] theorem unspecifyController_line (s : State) : (unspecifyController s).line = s.line := rfl
@[simp] theorem unspecifyController_phys (s : State) : (unspecifyController s).phys = s.phys := rfl
@[simp] theorem unspecifyController_logi (s : State) : (unspecifyController s).logi = s.logi := rfl
@[simp] theorem unspecifyController_scratch (s : State) : (unspecifyController s).scratch = s.scratch := rfl
@[simp] theorem unspecifyController_mirrored (s : State) : (unspecifyController s).mirrored = s.mirrored := rfl
@[simp] theorem unspecifyController_configured (s : State) : (unspecifyController s).configured = s.configured := rfl
@[simp] theorem unspecifyController_busy (s : State) : (unspecifyController s).busy = s.busy := rfl
@[simp] theorem unspecifyController_seq (s : State) : (unspecifyController s).seq = s.seq := rfl
@[simp] theorem unspecifyController_oper (s : State) : (unspecifyController s).oper = s.oper := rfl
@[simp] theorem unspecifyController_requests (s : State) : (unspecifyController s).requests = s.requests := rfl
@[simp] theorem unspecifyController_payload (s : State) : (unspecifyController s).payload = s.payload := rfl
@[simp] theorem unspecifyController_stages (s : State) : (unspecifyController s).stages = s.stages := rfl
@[simp] theorem unspecifyController_wiring (s : State) : (unspecifyController s).wiring = s.wiring := rfl
@[simp] theorem unspecifyController_lcd (s : State) : (unspecifyController s).lcd = s.lcd.unspecified s.receiverDraws := rfl
@[simp] theorem unspecifyController_trace (s : State) : (unspecifyController s).trace = s.trace := rfl
@[simp] theorem unspecifyController_received (s : State) : (unspecifyController s).received = s.received := rfl
@[simp] theorem unspecifyController_levelDraws (s : State) : (unspecifyController s).levelDraws = s.levelDraws := rfl
@[simp] theorem unspecifyController_receiverDraws (s : State) : (unspecifyController s).receiverDraws = s.receiverDraws + 1 := rfl

/-! ### `unspecifyReceivers` -/

@[simp] theorem unspecifyReceivers_line (s : State) : (unspecifyReceivers s).line = s.line := rfl
@[simp] theorem unspecifyReceivers_phys (s : State) : (unspecifyReceivers s).phys = s.phys := rfl
@[simp] theorem unspecifyReceivers_logi (s : State) : (unspecifyReceivers s).logi = s.logi := rfl
@[simp] theorem unspecifyReceivers_scratch (s : State) : (unspecifyReceivers s).scratch = s.scratch := rfl
@[simp] theorem unspecifyReceivers_mirrored (s : State) : (unspecifyReceivers s).mirrored = s.mirrored := rfl
@[simp] theorem unspecifyReceivers_configured (s : State) : (unspecifyReceivers s).configured = s.configured := rfl
@[simp] theorem unspecifyReceivers_busy (s : State) : (unspecifyReceivers s).busy = s.busy := rfl
@[simp] theorem unspecifyReceivers_seq (s : State) : (unspecifyReceivers s).seq = s.seq := rfl
@[simp] theorem unspecifyReceivers_oper (s : State) : (unspecifyReceivers s).oper = s.oper := rfl
@[simp] theorem unspecifyReceivers_requests (s : State) : (unspecifyReceivers s).requests = s.requests := rfl
@[simp] theorem unspecifyReceivers_payload (s : State) : (unspecifyReceivers s).payload = s.payload := rfl
@[simp] theorem unspecifyReceivers_stages (s : State) : (unspecifyReceivers s).stages = Config.freeStages s.receiverDraws := rfl
@[simp] theorem unspecifyReceivers_wiring (s : State) : (unspecifyReceivers s).wiring = s.wiring := rfl
@[simp] theorem unspecifyReceivers_lcd (s : State) : (unspecifyReceivers s).lcd = { s.lcd.unspecified s.receiverDraws with initBegun := false } := rfl
@[simp] theorem unspecifyReceivers_trace (s : State) : (unspecifyReceivers s).trace = s.trace := rfl
@[simp] theorem unspecifyReceivers_received (s : State) : (unspecifyReceivers s).received = s.received := rfl
@[simp] theorem unspecifyReceivers_levelDraws (s : State) : (unspecifyReceivers s).levelDraws = s.levelDraws := rfl
@[simp] theorem unspecifyReceivers_receiverDraws (s : State) : (unspecifyReceivers s).receiverDraws = s.receiverDraws + 1 := rfl

/-! ### `unspecifyLevel` -/

@[simp] theorem unspecifyLevel_line (r : Role) (s : State) : (unspecifyLevel r s).line = s.line.set r (Config.freeLevel s.levelDraws) := rfl
@[simp] theorem unspecifyLevel_phys (r : Role) (s : State) : (unspecifyLevel r s).phys = s.phys := rfl
@[simp] theorem unspecifyLevel_logi (r : Role) (s : State) : (unspecifyLevel r s).logi = s.logi := rfl
@[simp] theorem unspecifyLevel_scratch (r : Role) (s : State) : (unspecifyLevel r s).scratch = s.scratch := rfl
@[simp] theorem unspecifyLevel_mirrored (r : Role) (s : State) : (unspecifyLevel r s).mirrored = s.mirrored := rfl
@[simp] theorem unspecifyLevel_configured (r : Role) (s : State) : (unspecifyLevel r s).configured = s.configured := rfl
@[simp] theorem unspecifyLevel_busy (r : Role) (s : State) : (unspecifyLevel r s).busy = s.busy := rfl
@[simp] theorem unspecifyLevel_seq (r : Role) (s : State) : (unspecifyLevel r s).seq = s.seq := rfl
@[simp] theorem unspecifyLevel_oper (r : Role) (s : State) : (unspecifyLevel r s).oper = s.oper := rfl
@[simp] theorem unspecifyLevel_requests (r : Role) (s : State) : (unspecifyLevel r s).requests = s.requests := rfl
@[simp] theorem unspecifyLevel_payload (r : Role) (s : State) : (unspecifyLevel r s).payload = s.payload := rfl
@[simp] theorem unspecifyLevel_stages (r : Role) (s : State) : (unspecifyLevel r s).stages = s.stages := rfl
@[simp] theorem unspecifyLevel_wiring (r : Role) (s : State) : (unspecifyLevel r s).wiring = s.wiring := rfl
@[simp] theorem unspecifyLevel_lcd (r : Role) (s : State) : (unspecifyLevel r s).lcd = s.lcd := rfl
@[simp] theorem unspecifyLevel_trace (r : Role) (s : State) : (unspecifyLevel r s).trace = s.trace := rfl
@[simp] theorem unspecifyLevel_received (r : Role) (s : State) : (unspecifyLevel r s).received = s.received := rfl
@[simp] theorem unspecifyLevel_levelDraws (r : Role) (s : State) : (unspecifyLevel r s).levelDraws = s.levelDraws + 1 := rfl
@[simp] theorem unspecifyLevel_receiverDraws (r : Role) (s : State) : (unspecifyLevel r s).receiverDraws = s.receiverDraws := rfl

/-! ### `bindHandle` -/

@[simp] theorem bindHandle_line (p : PerRole PinId) (m : Bool) (s : State) : (bindHandle p m s).line = s.line := rfl
@[simp] theorem bindHandle_phys (p : PerRole PinId) (m : Bool) (s : State) : (bindHandle p m s).phys = p := rfl
@[simp] theorem bindHandle_logi (p : PerRole PinId) (m : Bool) (s : State) : (bindHandle p m s).logi = Config.logicalDefault := rfl
@[simp] theorem bindHandle_scratch (p : PerRole PinId) (m : Bool) (s : State) : (bindHandle p m s).scratch = s.scratch := rfl
@[simp] theorem bindHandle_mirrored (p : PerRole PinId) (m : Bool) (s : State) : (bindHandle p m s).mirrored = m := rfl
@[simp] theorem bindHandle_configured (p : PerRole PinId) (m : Bool) (s : State) : (bindHandle p m s).configured = s.configured := rfl
@[simp] theorem bindHandle_busy (p : PerRole PinId) (m : Bool) (s : State) : (bindHandle p m s).busy = s.busy := rfl
@[simp] theorem bindHandle_seq (p : PerRole PinId) (m : Bool) (s : State) : (bindHandle p m s).seq = s.seq := rfl
@[simp] theorem bindHandle_oper (p : PerRole PinId) (m : Bool) (s : State) : (bindHandle p m s).oper = s.oper := rfl
@[simp] theorem bindHandle_requests (p : PerRole PinId) (m : Bool) (s : State) : (bindHandle p m s).requests = s.requests := rfl
@[simp] theorem bindHandle_payload (p : PerRole PinId) (m : Bool) (s : State) : (bindHandle p m s).payload = s.payload := rfl
@[simp] theorem bindHandle_stages (p : PerRole PinId) (m : Bool) (s : State) : (bindHandle p m s).stages = s.stages := rfl
@[simp] theorem bindHandle_wiring (p : PerRole PinId) (m : Bool) (s : State) : (bindHandle p m s).wiring = s.wiring := rfl
@[simp] theorem bindHandle_lcd (p : PerRole PinId) (m : Bool) (s : State) : (bindHandle p m s).lcd = s.lcd := rfl
@[simp] theorem bindHandle_trace (p : PerRole PinId) (m : Bool) (s : State) : (bindHandle p m s).trace = s.trace := rfl
@[simp] theorem bindHandle_received (p : PerRole PinId) (m : Bool) (s : State) : (bindHandle p m s).received = s.received := rfl
@[simp] theorem bindHandle_levelDraws (p : PerRole PinId) (m : Bool) (s : State) : (bindHandle p m s).levelDraws = s.levelDraws := rfl
@[simp] theorem bindHandle_receiverDraws (p : PerRole PinId) (m : Bool) (s : State) : (bindHandle p m s).receiverDraws = s.receiverDraws := rfl

/-! ### `storeData` -/

@[simp] theorem storeData_line (b : Byte) (s : State) : (storeData b s).line = s.line := rfl
@[simp] theorem storeData_phys (b : Byte) (s : State) : (storeData b s).phys = s.phys := rfl
@[simp] theorem storeData_logi (b : Byte) (s : State) : (storeData b s).logi = s.logi := rfl
@[simp] theorem storeData_scratch (b : Byte) (s : State) : (storeData b s).scratch = s.scratch := rfl
@[simp] theorem storeData_mirrored (b : Byte) (s : State) : (storeData b s).mirrored = s.mirrored := rfl
@[simp] theorem storeData_configured (b : Byte) (s : State) : (storeData b s).configured = s.configured := rfl
@[simp] theorem storeData_busy (b : Byte) (s : State) : (storeData b s).busy = s.busy := rfl
@[simp] theorem storeData_seq (b : Byte) (s : State) : (storeData b s).seq = s.seq := rfl
@[simp] theorem storeData_oper (b : Byte) (s : State) : (storeData b s).oper = s.oper := rfl
@[simp] theorem storeData_requests (b : Byte) (s : State) : (storeData b s).requests = s.requests := rfl
@[simp] theorem storeData_payload (b : Byte) (s : State) : (storeData b s).payload = s.payload := rfl
@[simp] theorem storeData_stages (b : Byte) (s : State) : (storeData b s).stages = s.stages := rfl
@[simp] theorem storeData_wiring (b : Byte) (s : State) : (storeData b s).wiring = s.wiring := rfl
@[simp] theorem storeData_trace (b : Byte) (s : State) : (storeData b s).trace = s.trace := rfl
@[simp] theorem storeData_received (b : Byte) (s : State) : (storeData b s).received = s.received := rfl
@[simp] theorem storeData_levelDraws (b : Byte) (s : State) : (storeData b s).levelDraws = s.levelDraws := rfl
@[simp] theorem storeData_receiverDraws (b : Byte) (s : State) : (storeData b s).receiverDraws = s.receiverDraws + 1 := rfl

/-! ### `perform` -/

@[simp] theorem perform_line (e : Event) (s : State) : (perform e s).line = applyEvent s.line e := by cases e <;> rfl
@[simp] theorem perform_phys (e : Event) (s : State) : (perform e s).phys = s.phys := by cases e <;> rfl
@[simp] theorem perform_logi (e : Event) (s : State) : (perform e s).logi = s.logi := by cases e <;> rfl
@[simp] theorem perform_scratch (e : Event) (s : State) : (perform e s).scratch = s.scratch := by cases e <;> rfl
@[simp] theorem perform_mirrored (e : Event) (s : State) : (perform e s).mirrored = s.mirrored := by cases e <;> rfl
@[simp] theorem perform_configured (e : Event) (s : State) : (perform e s).configured = s.configured := by cases e <;> rfl
@[simp] theorem perform_busy (e : Event) (s : State) : (perform e s).busy = s.busy := by cases e <;> rfl
@[simp] theorem perform_seq (e : Event) (s : State) : (perform e s).seq = s.seq := by cases e <;> rfl
@[simp] theorem perform_oper (e : Event) (s : State) : (perform e s).oper = s.oper := by cases e <;> rfl
@[simp] theorem perform_requests (e : Event) (s : State) : (perform e s).requests = s.requests := by cases e <;> rfl
@[simp] theorem perform_payload (e : Event) (s : State) : (perform e s).payload = s.payload := by cases e <;> rfl
@[simp] theorem perform_stages (e : Event) (s : State) : (perform e s).stages = s.stages := by cases e <;> rfl
@[simp] theorem perform_wiring (e : Event) (s : State) : (perform e s).wiring = s.wiring := by cases e <;> rfl
@[simp] theorem perform_lcd (e : Event) (s : State) : (perform e s).lcd = s.lcd := by cases e <;> rfl
@[simp] theorem perform_trace (e : Event) (s : State) : (perform e s).trace = s.trace ++ [e] := by cases e <;> rfl
@[simp] theorem perform_received (e : Event) (s : State) : (perform e s).received = s.received := by cases e <;> rfl
@[simp] theorem perform_levelDraws (e : Event) (s : State) : (perform e s).levelDraws = s.levelDraws := by cases e <;> rfl
@[simp] theorem perform_receiverDraws (e : Event) (s : State) : (perform e s).receiverDraws = s.receiverDraws := by cases e <;> rfl

/-! ### `receiversReact` -/

@[simp] theorem receiversReact_line (l : PerRole Bool) (s : State) : (receiversReact l s).line = s.line := by
  unfold receiversReact; split <;> rfl
@[simp] theorem receiversReact_scratch (l : PerRole Bool) (s : State) : (receiversReact l s).scratch = s.scratch := by
  unfold receiversReact; split <;> rfl
@[simp] theorem receiversReact_configured (l : PerRole Bool) (s : State) : (receiversReact l s).configured = s.configured := by
  unfold receiversReact; split <;> rfl
@[simp] theorem receiversReact_trace (l : PerRole Bool) (s : State) : (receiversReact l s).trace = s.trace := by
  unfold receiversReact; split <;> rfl
@[simp] theorem receiversReact_levelDraws (l : PerRole Bool) (s : State) : (receiversReact l s).levelDraws = s.levelDraws := by
  unfold receiversReact; split <;> rfl
@[simp] theorem receiversReact_receiverDraws (l : PerRole Bool) (s : State) : (receiversReact l s).receiverDraws = s.receiverDraws := by
  unfold receiversReact; split <;> rfl
@[simp] theorem receiversReact_phys (l : PerRole Bool) (s : State) : (receiversReact l s).phys = s.phys := by
  unfold receiversReact; split <;> rfl
@[simp] theorem receiversReact_logi (l : PerRole Bool) (s : State) : (receiversReact l s).logi = s.logi := by
  unfold receiversReact; split <;> rfl
@[simp] theorem receiversReact_mirrored (l : PerRole Bool) (s : State) : (receiversReact l s).mirrored = s.mirrored := by
  unfold receiversReact; split <;> rfl
@[simp] theorem receiversReact_busy (l : PerRole Bool) (s : State) : (receiversReact l s).busy = s.busy := by
  unfold receiversReact; split <;> rfl
@[simp] theorem receiversReact_seq (l : PerRole Bool) (s : State) : (receiversReact l s).seq = s.seq := by
  unfold receiversReact; split <;> rfl
@[simp] theorem receiversReact_oper (l : PerRole Bool) (s : State) : (receiversReact l s).oper = s.oper := by
  unfold receiversReact; split <;> rfl
@[simp] theorem receiversReact_requests (l : PerRole Bool) (s : State) : (receiversReact l s).requests = s.requests := by
  unfold receiversReact; split <;> rfl
@[simp] theorem receiversReact_payload (l : PerRole Bool) (s : State) : (receiversReact l s).payload = s.payload := by
  unfold receiversReact; split <;> rfl
@[simp] theorem receiversReact_wiring (l : PerRole Bool) (s : State) : (receiversReact l s).wiring = s.wiring := by
  unfold receiversReact; split <;> rfl
@[simp] theorem receiversReact_stages (l : PerRole Bool) (s : State) :
    (receiversReact l s).stages = shiftRegister l s.line s.stages := by
  unfold receiversReact; split <;> rfl
/-- The controller at most takes a transfer. -/
theorem receiversReact_lcd (l : PerRole Bool) (s : State) :
    (receiversReact l s).lcd = { s.lcd with pending := (receiversReact l s).lcd.pending } := by
  unfold receiversReact; split <;> rfl

/-! ### `emit`: what carrying out an entry leaves, whatever its effect -/

@[simp] theorem emit_phys (e : SeqEntry) (s : State) : (emit e s).phys = s.phys := by
  unfold emit; split <;> simp
@[simp] theorem emit_logi (e : SeqEntry) (s : State) : (emit e s).logi = s.logi := by
  unfold emit; split <;> simp
@[simp] theorem emit_mirrored (e : SeqEntry) (s : State) : (emit e s).mirrored = s.mirrored := by
  unfold emit; split <;> simp
@[simp] theorem emit_busy (e : SeqEntry) (s : State) : (emit e s).busy = s.busy := by
  unfold emit; split <;> simp
@[simp] theorem emit_seq (e : SeqEntry) (s : State) : (emit e s).seq = s.seq := by
  unfold emit; split <;> simp
@[simp] theorem emit_oper (e : SeqEntry) (s : State) : (emit e s).oper = s.oper := by
  unfold emit; split <;> simp
@[simp] theorem emit_requests (e : SeqEntry) (s : State) : (emit e s).requests = s.requests := by
  unfold emit; split <;> simp
@[simp] theorem emit_payload (e : SeqEntry) (s : State) : (emit e s).payload = s.payload := by
  unfold emit; split <;> simp
@[simp] theorem emit_wiring (e : SeqEntry) (s : State) : (emit e s).wiring = s.wiring := by
  unfold emit; split <;> simp
@[simp] theorem emit_trace (e : SeqEntry) (s : State) : (emit e s).trace = s.trace ++ [e.event] := by
  unfold emit; split <;> simp
theorem emit_configured (e : SeqEntry) (s : State) (h : e.effect ≠ .configure) :
    (emit e s).configured = s.configured := by
  unfold emit; split <;> simp_all
theorem emit_configured_mono (e : SeqEntry) (s : State) (h : s.configured = true) : (emit e s).configured = true := by
  unfold emit; split <;> simp [h]
theorem emit_line (e : SeqEntry) (s : State) (h : ∀ r, e.effect ≠ .modeOutput r) :
    (emit e s).line = applyEvent s.line e.event := by
  unfold emit; split <;> simp_all
theorem emit_line_mode (e : SeqEntry) (s : State) (r : Role) (h : e.effect = .modeOutput r) :
    (emit e s).line = (applyEvent s.line e.event).set r (Config.freeLevel s.levelDraws) := by
  simp [emit, h]
/-- The controller at most takes a transfer; at the first event of `INITIALIZE_DISPLAY` its ghosts say so; in `SETUP` it is left
unspecified. -/
theorem emit_lcd (e : SeqEntry) (s : State) :
    (emit e s).lcd = { s.lcd with pending := (emit e s).lcd.pending } ∨
      (e.effect = .initBegins ∧ (emit e s).lcd = { s.lcd with pending := (emit e s).lcd.pending }.beginInit) ∨
      (emit e s).lcd = { s.lcd.unspecified s.receiverDraws with initBegun := false } := by
  obtain ⟨ev, eff⟩ := e
  cases eff with
  | plain => exact .inl (by simp only [emit]; rw [receiversReact_lcd]; simp)
  | stage b => exact .inl (by simp only [emit]; rw [receiversReact_lcd]; simp)
  | initBegins =>
    refine .inr (.inl ⟨rfl, ?_⟩)
    simp only [emit, beginInit_lcd, Lcd.beginInit_pending]
    rw [receiversReact_lcd]
    simp
  | modeOutput r => exact .inr (.inr (by simp [emit]))
  | idleLevel => exact .inr (.inr (by simp [emit]))
  | configure => exact .inr (.inr (by simp [emit]))

end Machine

end Sys2Proof
end

