-- ==== Sys2Proof/Laws/Sequencer.lean ====
section
/-! SUPPORT. What accepting an operation, advancing the sequencer, a controller step and a whole step can do, said once; and
the run of one bus-transfer frame. -/

namespace Sys2Proof.Machine

/-! ### Runs -/

@[simp] theorem runSteps_zero (s : State) : runSteps 0 s = .next s := rfl

theorem runSteps_succ {n : Nat} {s t : State} (h : step s = .next t) : runSteps (n + 1) s = runSteps n t := by
  simp [runSteps, h]

theorem runSteps_add {m n : Nat} {s t : State} (h : runSteps m s = .next t) : runSteps (m + n) s = runSteps n t := by
  induction m generalizing s with
  | zero => simp only [runSteps] at h; cases h; simp
  | succ m ih =>
    rw [Nat.succ_add]
    simp only [runSteps] at h ⊢
    split at h
    · exact ih h
    · cases h
    · cases h

/-- A run of the host's interface is a run of `step`. -/
theorem core_run_eq_runSteps (n : Nat) (s : State) : Host.Core.run Sys2Proof.core n s = runSteps n s := by
  induction n generalizing s with
  | zero => rfl
  | succ n ih =>
    have hc : Sys2Proof.core.step s = step s := rfl
    simp only [Host.Core.run, runSteps, hc]
    cases step s with
    | next t => exact ih t
    | fault r => rfl
    | refused r => rfl

/-- A property every step keeps holds after any run. -/
theorem runSteps_keeps {P : State → Prop} (hstep : ∀ s t, P s → step s = .next t → P t) {n : Nat} {s t : State}
    (hs : P s) (h : runSteps n s = .next t) : P t := by
  induction n generalizing s with
  | zero => simp only [runSteps] at h; cases h; exact hs
  | succ n ih =>
    simp only [runSteps] at h
    split at h
    · exact ih (hstep _ _ hs ‹_›) h
    · cases h
    · cases h

/-! ### Accepting -/

theorem accept_eq (i : Instr) (es : List SeqEntry) (s : State) :
    accept i es s =
      { s with seq := es, busy := !es.isEmpty, oper := if es.isEmpty then none else some i } := by
  cases es <;> rfl

/-- An operation that is issued was not refused for any of the three reasons. -/
theorem issue_next {i : Instr} {es : List SeqEntry} {s a : State} (h : issue i es s = .next a) :
    s.busy = false ∧ s.configured = true ∧ (s.line.en = false ∨ es.any SeqEntry.strobes = false) ∧ a = accept i es s := by
  unfold issue at h
  by_cases hb : s.busy = true
  · simp [hb] at h
  by_cases hc : s.configured = true
  · by_cases he : (s.line.en && es.any SeqEntry.strobes) = true
    · simp only [hb, hc, he] at h
      cases h
    · simp only [hb, hc, he] at h
      cases h
      refine ⟨by simpa using hb, hc, ?_, rfl⟩
      simpa only [Bool.not_eq_true, Bool.and_eq_false_iff] using he
  · simp [hb, hc] at h

theorem issue_ready {i : Instr} {es : List SeqEntry} {s : State} (hc : s.configured = true) (hb : s.busy = false)
    (he : s.line.en = false) : issue i es s = .next (accept i es s) := by
  simp [issue, hc, hb, he]

/-- Every operation but `SETUP` is issued with the list `entriesOf` gives. -/
theorem exec_eq_issue {i : Instr} (s : State) (hi : isOperation i = true) (hs : isSetup i = false) :
    exec i s = issue i (entriesOf s.mirrored i) s := by
  cases i <;> first | rfl | (simp [isSetup] at hs; done) | (simp [isOperation] at hi)

/-- What accepting an operation can do, `SETUP` included. -/
theorem exec_operation_next {i : Instr} {s a : State} (hi : isOperation i = true) (h : exec i s = .next a) :
    s.busy = false ∧
      ((isSetup i = false ∧ s.configured = true ∧ a = accept i (entriesOf s.mirrored i) s) ∨
        ∃ pins m, i = .setup pins m ∧ a = accept i (entriesOf s.mirrored i) (bindHandle pins m s)) := by
  cases hs : isSetup i with
  | true =>
    obtain ⟨pins, m, rfl⟩ : ∃ pins m, i = .setup pins m := by
      cases i <;> first | exact ⟨_, _, rfl⟩ | (simp [isSetup] at hs)
    simp only [exec, execSetup] at h
    split at h
    · cases h
    · cases h
      exact ⟨by simp_all, .inr ⟨pins, m, rfl, rfl⟩⟩
  | false =>
    rw [exec_eq_issue s hi hs] at h
    obtain ⟨hb, hc, -, rfl⟩ := issue_next h
    exact ⟨hb, .inl ⟨rfl, hc, rfl⟩⟩

/-! ### The controller -/

/-- What every effect of a transfer has in common: it reads and writes the controller and the count of its free values only, takes
no transfer, leaves the ghosts, and keeps the memories' canonical form. -/
structure ControllerEffect (f : State → State) : Prop where
  frame : ∀ s u, u.lcd = s.lcd → u.receiverDraws = s.receiverDraws →
    f u = { u with lcd := (f s).lcd, receiverDraws := (f s).receiverDraws }
  pending : ∀ s, s.lcd.pending = none → (f s).lcd.pending = none
  initBegun : ∀ s, (f s).lcd.initBegun = s.lcd.initBegun
  order : ∀ s, (f s).lcd.order = s.lcd.order
  ram : ∀ s, RamInv s → RamInv (f s)

/-- An effect that rewrites the controller by itself, and neither its ghosts nor its latch. -/
theorem ControllerEffect.ofLcd {f : State → State} {g : Lcd → Lcd} (hf : ∀ s, f s = { s with lcd := g s.lcd })
    (hp : ∀ l, (g l).pending = l.pending) (hi : ∀ l, (g l).initBegun = l.initBegun) (ho : ∀ l, (g l).order = l.order)
    (hd : ∀ l, (g l).ddram = l.ddram ∨ (g l).ddram = blankDdram) (hc : ∀ l, (g l).cgram = l.cgram) :
    ControllerEffect f where
  frame s u h1 h2 := by rw [hf u, hf s, h1, ← h2]
  pending s h := by rw [hf]; exact (hp _).trans h
  initBegun s := by rw [hf]; exact hi _
  order s := by rw [hf]; exact ho _
  ram s h := by
    rw [hf]
    obtain ⟨h1, h2, h3, h4⟩ := h
    unfold RamInv
    simp only [hc]
    rcases hd s.lcd with hd | hd <;> rw [hd]
    · exact ⟨h1, h2, h3, h4⟩
    · exact ⟨blankDdram_wf, h2, blankDdram_cells, h4⟩

theorem pointAt_effect (sel : RamSelect) (ac : BitVec 7) : ControllerEffect (pointAt sel ac) :=
  .ofLcd (g := fun l => { l with sel := sel, ac := ac }) (fun _ => rfl) (fun _ => rfl) (fun _ => rfl) (fun _ => rfl)
    (fun _ => .inl rfl) (fun _ => rfl)

theorem clearDisplay_effect : ControllerEffect (fun u => pointAt .ddram 0 (fillDdram u)) :=
  .ofLcd (g := fun l => { l with sel := .ddram, ac := 0, ddram := blankDdram }) (fun _ => rfl) (fun _ => rfl)
    (fun _ => rfl) (fun _ => rfl) (fun _ => .inr rfl) (fun _ => rfl)

theorem setEntryMode_effect (i sh : Bool) : ControllerEffect (setEntryMode i sh) :=
  .ofLcd (g := fun l => { l with inc := i, shift := sh }) (fun _ => rfl) (fun _ => rfl) (fun _ => rfl) (fun _ => rfl)
    (fun _ => .inl rfl) (fun _ => rfl)

theorem setDisplayControl_effect (d c b : Bool) : ControllerEffect (setDisplayControl d c b) :=
  .ofLcd (g := fun l => { l with displayOn := d, cursorOn := c, blinkOn := b }) (fun _ => rfl) (fun _ => rfl)
    (fun _ => rfl) (fun _ => rfl) (fun _ => .inl rfl) (fun _ => rfl)

theorem setFunction_effect (l n f : Bool) : ControllerEffect (setFunction l n f) :=
  .ofLcd (g := fun x => { x with bus8 := l, twoLine := n, font10 := f }) (fun _ => rfl) (fun _ => rfl) (fun _ => rfl)
    (fun _ => rfl) (fun _ => .inl rfl) (fun _ => rfl)

theorem unspecifyController_effect : ControllerEffect unspecifyController where
  frame s u h1 h2 := by simp only [unspecifyController, h1, h2]
  pending _ _ := rfl
  initBegun _ := rfl
  order _ := rfl
  ram _ _ := ⟨rfl, rfl, by simp, by simp⟩

theorem storeData_effect (d : Byte) : ControllerEffect (storeData d) where
  frame s u h1 h2 := by simp only [storeData, h1, h2]
  pending s h := by simp only [storeData]; split <;> exact h
  initBegun s := by simp only [storeData]; split <;> rfl
  order s := by simp only [storeData]; split <;> rfl
  ram s h := by
    obtain ⟨h1, h2, h3, h4⟩ := h
    simp only [storeData]
    split
    · simp only [RamInv, storeDdram]
      split
      · refine ⟨Memory.wf_write _ _ h1, h2, fun c hc => ?_, h4⟩
        rcases Memory.mem_write hc with hc | hc
        · rw [hc]; assumption
        · exact h3 c hc
      · exact ⟨rfl, h2, by simp, h4⟩
    · simp only [RamInv]
      refine ⟨h1, Memory.wf_write _ _ h2, h3, fun c hc => ?_⟩
      rcases Memory.mem_write hc with hc | hc
      · rw [hc, BitVec.toNat_and]
        exact Nat.lt_of_le_of_lt Nat.and_le_right (by decide)
      · exact h4 c hc

/-- A command of the controller always completes, and is run as one effect. -/
theorem exec_command {i : Instr} (hi : isOperation i = false) :
    ∃ f, ControllerEffect f ∧ ∀ s, exec i s = .next (controllerRuns f s) := by
  cases i with
  | lcdClearDisplay => exact ⟨_, clearDisplay_effect, fun _ => rfl⟩
  | lcdReturnHome => exact ⟨_, pointAt_effect _ _, fun _ => rfl⟩
  | lcdEntryModeSet i s => exact ⟨_, setEntryMode_effect _ _, fun _ => rfl⟩
  | lcdDisplayControl d c b => exact ⟨_, setDisplayControl_effect _ _ _, fun _ => rfl⟩
  | lcdFunctionSet l n f => exact ⟨_, setFunction_effect _ _ _, fun _ => rfl⟩
  | lcdSetCgramAddr a => exact ⟨_, pointAt_effect _ _, fun _ => rfl⟩
  | lcdSetDdramAddr a => exact ⟨_, pointAt_effect _ _, fun _ => rfl⟩
  | _ => simp [isOperation] at hi

theorem decodeCommand_command {b : Byte} {i : Instr} (h : decodeCommand b = .ok i) : isOperation i = false := by
  unfold decodeCommand at h
  repeat' split at h
  all_goals first | (cases h; rfl) | cases h

/-- A decoded request is an operation of the block. -/
theorem decodeRequest_operation {w : ReqWord} {pl rest : List Byte} {i : Instr} (h : decodeRequest w pl = .ok i rest) :
    isOperation i = true := by
  unfold decodeRequest at h
  repeat' split at h
  all_goals first | (cases h; rfl) | cases h

/-- Before `INITIALIZE_DISPLAY` a transfer leaves the controller unspecified, whatever it is. -/
theorem controllerRuns_before (f : State → State) {s : State} (h : s.lcd.initBegun = false) :
    controllerRuns f s =
      { s with lcd := { s.lcd.unspecified s.receiverDraws with order := .broken }, receiverDraws := s.receiverDraws + 1 } := by
  simp [controllerRuns, h, unspecifyController]

/-- From `INITIALIZE_DISPLAY` on it has its effect; where the premise "initialised once, first" has failed, no byte of the memories
is known. -/
theorem controllerRuns_after (f : State → State) {s : State} (h : s.lcd.initBegun = true) :
    controllerRuns f s = { f s with lcd := (f s).lcd.forget } := by
  simp [controllerRuns, h]

/-- A transfer's execution changes the controller only, and looks at the controller only. -/
theorem controllerRuns_frame {f : State → State} (hf : ControllerEffect f) (s u : State) (h1 : u.lcd = s.lcd)
    (h2 : u.receiverDraws = s.receiverDraws) :
    controllerRuns f u =
      { u with lcd := (controllerRuns f s).lcd, receiverDraws := (controllerRuns f s).receiverDraws } := by
  cases hb : s.lcd.initBegun with
  | true =>
    rw [controllerRuns_after f hb, controllerRuns_after f (by rw [h1, hb]), hf.frame s u h1 h2]
  | false =>
    rw [controllerRuns_before f hb, controllerRuns_before f (by rw [h1, hb]), h1, h2]

theorem controllerRuns_pending {f : State → State} (hf : ControllerEffect f) {s : State} (h : s.lcd.pending = none) :
    (controllerRuns f s).lcd.pending = none := by
  cases hb : s.lcd.initBegun with
  | true => rw [controllerRuns_after f hb]; simpa using hf.pending s h
  | false => rw [controllerRuns_before f hb]; rfl

/-- Executing a transfer keeps the memories' canonical form and what is known of them. -/
theorem controllerRuns_memories {f : State → State} (hf : ControllerEffect f) {s : State} (hr : RamInv s) (hk : KnownInv s) :
    RamInv (controllerRuns f s) ∧ KnownInv (controllerRuns f s) := by
  have ho := hf.order s
  have hi := hf.initBegun s
  unfold RamInv KnownInv
  cases hb : s.lcd.initBegun with
  | false =>
    rw [controllerRuns_before f hb]
    exact ⟨⟨rfl, rfl, by simp, by simp⟩, by simp, by simp [hb]⟩
  | true =>
    rw [controllerRuns_after f hb]
    by_cases hbr : s.lcd.order = .broken
    · rw [Lcd.forget_broken (by rw [ho, hbr])]
      exact ⟨⟨rfl, rfl, by simp, by simp⟩, by simp, by simp [ho, hbr]⟩
    · rw [Lcd.forget_known (by rw [ho]; exact hbr)]
      refine ⟨hf.ram s hr, ?_, ?_⟩
      · simp [ho, hi, hb, hbr]
      · simp only [ho]
        exact fun _ => hk.2 hb

/-- So does emitting an event. -/
theorem emit_memories (e : SeqEntry) {s : State} (hr : RamInv s) (hk : KnownInv s) :
    RamInv (emit e s) ∧ KnownInv (emit e s) := by
  unfold RamInv KnownInv
  rcases emit_lcd e s with h | ⟨-, h⟩ | h <;> rw [h]
  · exact ⟨hr, hk⟩
  · by_cases hc : s.lcd.order = .clean
    · rw [Lcd.beginInit_clean (by exact hc)]
      exact ⟨hr, by simp, by simp⟩
    · rw [Lcd.beginInit_notClean (by exact hc)]
      exact ⟨⟨rfl, rfl, by simp, by simp⟩, by simp, by simp⟩
  · exact ⟨⟨rfl, rfl, by simp, by simp⟩, by simp, by simp⟩

/-- A step with a transfer pending executes it, the same effect in every state that holds this transfer. -/
theorem step_transfer (tr : Transfer) :
    ∃ f, ControllerEffect f ∧ ∀ s, s.lcd.pending = some tr → step s = .next (controllerRuns f (clearPending s)) := by
  by_cases h1 : tr.rw ≠ Config.rwWrite
  · exact ⟨_, unspecifyController_effect, fun s h => by simp only [step, fetch, h, fetchTransfer, if_pos h1]⟩
  by_cases h2 : tr.rs = Config.rsData
  · exact ⟨_, storeData_effect tr.db, fun s h => by simp only [step, fetch, h, fetchTransfer, if_neg h1, if_pos h2]⟩
  cases hd : decodeCommand tr.db with
  | ok i =>
    obtain ⟨f, hf, hx⟩ := exec_command (decodeCommand_command hd)
    exact ⟨f, hf, fun s h => by simp only [step, fetch, h, fetchTransfer, if_neg h1, if_neg h2, hd, hx]⟩
  | unknownCommand b =>
    exact ⟨_, unspecifyController_effect, fun s h => by
      simp only [step, fetch, h, fetchTransfer, if_neg h1, if_neg h2, hd]⟩

/-- What the controller makes of a pending transfer, the same in every state that holds this controller. -/
theorem controller_step {l0 : Lcd} {tr : Transfer} (d0 : Nat) (h : l0.pending = some tr) :
    ∃ l d, l.pending = none ∧ ∀ s : State, s.lcd = l0 → s.receiverDraws = d0 →
      step s = .next { s with lcd := l, receiverDraws := d } := by
  obtain ⟨f, hf, hstep⟩ := step_transfer tr
  obtain ⟨s0, hl0, hd0⟩ : ∃ s0 : State, s0.lcd = l0 ∧ s0.receiverDraws = d0 :=
    ⟨{ State.reset with lcd := l0, receiverDraws := d0 }, rfl, rfl⟩
  refine ⟨(controllerRuns f (clearPending s0)).lcd, (controllerRuns f (clearPending s0)).receiverDraws,
    controllerRuns_pending hf rfl, fun s h1 h2 => ?_⟩
  rw [hstep s (by rw [h1, h]),
    controllerRuns_frame hf (clearPending s0) (clearPending s) (by simp [h1, hl0]) (by simp [h2, hd0])]
  rfl

/-- A step with a transfer pending is the controller's: it always goes on, takes the transfer, and changes the controller
only. -/
theorem step_pending {s : State} {tr : Transfer} (h : s.lcd.pending = some tr) :
    ∃ l d, step s = .next { s with lcd := l, receiverDraws := d } ∧ l.pending = none := by
  obtain ⟨l, d, hl, hs⟩ := controller_step s.receiverDraws h
  exact ⟨l, d, hs s rfl rfl, hl⟩

/-- The controller's step looks at the controller only. -/
theorem step_pending_congr {s s' u : State} {tr : Transfer} (h : s.lcd.pending = some tr) (hl : s'.lcd = s.lcd)
    (hd : s'.receiverDraws = s.receiverDraws) (hu : step s = .next u) :
    step s' = .next { s' with lcd := u.lcd, receiverDraws := u.receiverDraws } := by
  obtain ⟨l, d, -, hs⟩ := controller_step s.receiverDraws h
  rw [hs s rfl rfl] at hu
  cases hu
  exact hs s' hl hd

/-! ### The whole step -/

/-- What a step can do. -/
theorem step_next_cases {s t : State} (h : step s = .next t) :
    (∃ tr, s.lcd.pending = some tr ∧ t = { s with lcd := t.lcd, receiverDraws := t.receiverDraws } ∧ t.lcd.pending = none) ∨
    (s.lcd.pending = none ∧ s.busy = true ∧ t = advance s) ∨
    (s.lcd.pending = none ∧ s.busy = false ∧ t = s) ∨
    (s.lcd.pending = none ∧ s.busy = false ∧ ∃ w more i rest, s.requests = w :: more ∧
      decodeRequest w s.payload = .ok i rest ∧ exec i { s with requests := more, payload := rest } = .next t) := by
  cases hp : s.lcd.pending with
  | some tr =>
    obtain ⟨l, d, hs, hl⟩ := step_pending hp
    rw [h] at hs
    cases hs
    exact .inl ⟨tr, rfl, rfl, hl⟩
  | none =>
    right
    simp only [step, fetch, hp] at h
    cases hb : s.busy with
    | true => simp only [hb, if_true] at h; cases h; exact .inl ⟨rfl, rfl, rfl⟩
    | false =>
      right
      simp only [hb, Bool.false_eq_true, if_false, fetchRequest] at h
      cases hr : s.requests with
      | nil => simp only [hr] at h; cases h; exact .inl ⟨rfl, rfl, rfl⟩
      | cons w more =>
        simp only [hr] at h
        cases hd : decodeRequest w s.payload with
        | ok i rest => simp only [hd] at h; exact .inr ⟨rfl, rfl, w, more, i, rest, rfl, hd, h⟩
        | reservedOperation op => simp only [hd] at h; cases h
        | payloadMissing n => simp only [hd] at h; cases h; exact .inl ⟨rfl, rfl, rfl⟩

/-- A step of the sequencer, away from the last event. -/
theorem step_advance {s : State} {e e' : SeqEntry} {rest : List SeqEntry} (hp : s.lcd.pending = none)
    (hb : s.busy = true) (hq : s.seq = e :: e' :: rest) :
    step s = .next (emit e { s with seq := e' :: rest }) := by
  simp [step, fetch, hp, hb, advance, hq]

/-- The sequencer's step at the last event. -/
theorem step_advance_last {s : State} {e : SeqEntry} (hp : s.lcd.pending = none)
    (hb : s.busy = true) (hq : s.seq = [e]) :
    step s = .next (finish (emit e { s with seq := [] })) := by
  simp [step, fetch, hp, hb, advance, hq]

end Sys2Proof.Machine
end

