-- ==== Sys2Proof/Laws/Frames.lean ====
section
/-! SUPPORT. The runs of event lists: entries that make no enable pulse, and the bus-transfer frame as a whole. -/

namespace Sys2Proof.Machine

/-! ### Entries without a falling edge on EN -/

/-- What a quiet entry changes besides the trace: the lines, the shift register and `SCRATCH`. -/
structure Quiet where
  line : PerRole Bool
  stages : BitVec 8
  scratch : Byte

/-- The entry leaves the receivers reacting as usual and makes no falling edge on `EN`. -/
def quietEntry (l : PerRole Bool) (e : SeqEntry) : Bool :=
  match e.effect with
  | .plain => !(l.en && !(applyEvent l e.event).en)
  | .stage _ => !(l.en && !(applyEvent l e.event).en)
  | _ => false

def quietStep (q : Quiet) (e : SeqEntry) : Quiet where
  line := applyEvent q.line e.event
  stages := shiftRegister q.line (applyEvent q.line e.event) q.stages
  scratch := match e.effect with
    | .stage b => b
    | _ => q.scratch

def quietRun (q : Quiet) (es : List SeqEntry) : Quiet := es.foldl quietStep q

def allQuiet (l : PerRole Bool) (es : List SeqEntry) : Bool :=
  match es with
  | [] => true
  | e :: rest => quietEntry l e && allQuiet (applyEvent l e.event) rest

/-- A quiet entry that is not the last. -/
theorem step_quiet {s : State} {e e' : SeqEntry} {rest : List SeqEntry} (hp : s.lcd.pending = none)
    (hb : s.busy = true) (hq : s.seq = e :: e' :: rest) (h : quietEntry s.line e = true) :
    step s = .next { s with
      seq := e' :: rest
      trace := s.trace ++ [e.event]
      line := (quietStep ⟨s.line, s.stages, s.scratch⟩ e).line
      stages := (quietStep ⟨s.line, s.stages, s.scratch⟩ e).stages
      scratch := (quietStep ⟨s.line, s.stages, s.scratch⟩ e).scratch } := by
  rw [step_advance hp hb hq]
  obtain ⟨ev, eff⟩ := e
  have hf : ¬ (s.line.en = true ∧ (applyEvent s.line ev).en = false) := by
    rintro ⟨h1, h2⟩
    cases eff <;> simp [quietEntry, h1, h2] at h
  cases eff <;> simp [quietEntry] at h
  · simp only [emit, receiversReact, perform_line, if_neg hf]
    cases ev <;> rfl
  · simp only [emit, receiversReact, perform_line, stageByte_line, if_neg hf]
    cases ev <;> rfl

/-- Quiet entries followed by at least one more: one step each. -/
theorem run_quiet (es : List SeqEntry) {s : State} {e' : SeqEntry} {rest : List SeqEntry} (hp : s.lcd.pending = none)
    (hb : s.busy = true) (hq : s.seq = es ++ e' :: rest) (h : allQuiet s.line es = true) :
    runSteps es.length s = .next { s with
      seq := e' :: rest
      trace := s.trace ++ eventsOf es
      line := (quietRun ⟨s.line, s.stages, s.scratch⟩ es).line
      stages := (quietRun ⟨s.line, s.stages, s.scratch⟩ es).stages
      scratch := (quietRun ⟨s.line, s.stages, s.scratch⟩ es).scratch } := by
  induction es generalizing s with
  | nil =>
    obtain ⟨⟩ := s
    simp_all [eventsOf, quietRun]
  | cons e es ih =>
    simp only [allQuiet, Bool.and_eq_true] at h
    obtain ⟨e'', rest'', hr⟩ : ∃ e'' rest'', es ++ e' :: rest = e'' :: rest'' := by
      cases es with
      | nil => exact ⟨_, _, rfl⟩
      | cons a b => exact ⟨_, _, rfl⟩
    rw [List.cons_append, hr] at hq
    rw [List.length_cons, runSteps_succ (step_quiet hp hb hq h.1), ih]
    · simp [quietRun, eventsOf, List.append_assoc, quietStep]
    · exact hp
    · exact hb
    · exact hr.symm
    · simpa [quietStep] using h.2

/-! ### The frame of a bus transfer -/

/-- The frame up to the event before `EN` falls. -/
def busHead (rs : Bool) (x : Byte) : List SeqEntry :=
  [plain (.set .rs rs), plain (.set .rw Config.rwWrite)] ++ transmitSeq x ++
    [plain (.set .en false), plain (.wait Config.tEnPreUs), plain (.set .en true), plain (.wait Config.tEnHighUs)]

theorem busSeq_eq (rs : Bool) (x : Byte) :
    busSeq rs x = busHead rs x ++ [plain (.set .en false), plain (.wait Config.tEnPostUs)] := rfl

theorem eventsOf_busSeq (rs : Bool) (x : Byte) : eventsOf (busSeq rs x) = busFrame rs x := rfl

theorem eventsOf_transmitSeq (x : Byte) : eventsOf (transmitSeq x) = serialFrame x := rfl

theorem eventsOf_pulseSeq : eventsOf pulseSeq = enablePulse := rfl

theorem eventsOf_append (es es' : List SeqEntry) : eventsOf (es ++ es') = eventsOf es ++ eventsOf es' := by
  simp [eventsOf]

/-- One bit shifted in (20_memory.md R40). -/
def shiftIn (x : Byte) (st : BitVec 8) (i : Nat) : BitVec 8 := (st <<< 1) ||| (BitVec.ofBool (x.getLsbD i)).setWidth 8

/-- The stages after `j` shifts into a cleared register. -/
def shifted (x : Byte) (j : Nat) : BitVec 8 := (List.range j).foldl (shiftIn x) 0

/-- The loaded register holds the byte (20_memory.md R41). -/
theorem parallelOut_shifted : ∀ x : Byte, parallelOut (shifted x 8) = x := by decide

theorem quietRun_append (q : Quiet) (es es' : List SeqEntry) : quietRun q (es ++ es') = quietRun (quietRun q es) es' :=
  List.foldl_append ..

/-- One bit slot: the data line is set while the clock is low, and the rising edge shifts it in. -/
theorem quietRun_bitSlot {l : PerRole Bool} (hl : l.srclr = true) (st : BitVec 8) (sc x : Byte) (i : Nat) :
    quietRun ⟨l, st, sc⟩ (bitSlot x i) = ⟨{ l with srclk := true, srdat := x.getLsbD i }, shiftIn x st i, sc⟩ := by
  obtain ⟨ck, cl, dt, en, rs, rw⟩ := l
  cases hl
  cases ck <;> rfl

theorem quietRun_bitSlots {l : PerRole Bool} (hl : l.srclr = true) (st : BitVec 8) (sc x : Byte) (n : Nat) :
    quietRun ⟨l, st, sc⟩ ((List.range (n + 1)).flatMap (bitSlot x)) =
      ⟨{ l with srclk := true, srdat := x.getLsbD n }, (List.range (n + 1)).foldl (shiftIn x) st, sc⟩ := by
  induction n with
  | zero => simpa using quietRun_bitSlot hl st sc x 0
  | succ n ih =>
    rw [List.range_succ, List.flatMap_append, quietRun_append, ih, List.foldl_append, List.flatMap_singleton,
      quietRun_bitSlot (by exact hl)]
    rfl

theorem quietRun_transmitSeq (l : PerRole Bool) (st : BitVec 8) (sc x : Byte) :
    quietRun ⟨l, st, sc⟩ (transmitSeq x) =
      ⟨{ l with srclk := true, srclr := true, srdat := x.getLsbD 7 }, shifted x 8, x⟩ := by
  have h0 : ∃ l', quietRun ⟨l, st, sc⟩
      [⟨.set .srclr false, .stage x⟩, plain (.wait Config.tClrLowUs), plain (.set .srclr true)] = ⟨l', 0, x⟩ ∧
      l' = { l with srclr := true } := by
    refine ⟨_, ?_, rfl⟩
    obtain ⟨ck, cl, dt, en, rs, rw⟩ := l
    cases ck <;> rfl
  obtain ⟨l', h0, rfl⟩ := h0
  rw [transmitSeq, quietRun_append, h0]
  exact quietRun_bitSlots rfl 0 x x 7

theorem quietRun_busHead (l : PerRole Bool) (st : BitVec 8) (sc x : Byte) (rs : Bool) :
    quietRun ⟨l, st, sc⟩ (busHead rs x) =
      ⟨⟨true, true, x.getLsbD 7, true, rs, Config.rwWrite⟩, shifted x 8, x⟩ := by
  rw [busHead, quietRun_append, quietRun_append]
  have h2 : ∀ q : Quiet, ∃ st', quietRun q [plain (.set .rs rs), plain (.set .rw Config.rwWrite)] =
      ⟨{ q.line with rs := rs, rw := Config.rwWrite }, st', q.scratch⟩ := fun q => ⟨_, rfl⟩
  obtain ⟨st', h2⟩ := h2 ⟨l, st, sc⟩
  rw [h2, quietRun_transmitSeq]
  rfl

theorem allQuiet_transmitSeq {l : PerRole Bool} (he : l.en = false) (x : Byte) : allQuiet l (transmitSeq x) = true := by
  obtain ⟨ck, cl, dt, en, rs, rw⟩ := l
  cases he
  rfl

theorem allQuiet_busHead {l : PerRole Bool} (he : l.en = false) (rs : Bool) (x : Byte) :
    allQuiet l (busHead rs x) = true := by
  obtain ⟨ck, cl, dt, en, rs, rw⟩ := l
  cases he
  rfl

theorem runSteps_three {s t u v : State} (h1 : step s = .next t) (h2 : step t = .next u) (h3 : step u = .next v) :
    runSteps 3 s = .next v := by
  simp [runSteps, h1, h2, h3]

/-- Without a clock edge, and with the clear line high, the shift register keeps its stages. -/
theorem shiftRegister_same {l l' : PerRole Bool} (hclr : l'.srclr = true) (hck : l'.srclk = l.srclk) (st : BitVec 8) :
    shiftRegister l l' st = st := by
  cases h : l.srclk <;> simp [shiftRegister, hclr, hck, h]

/-- `EN` falls: the controller takes the transfer presented. -/
theorem step_enableFalls {s : State} {e' : SeqEntry} {rest : List SeqEntry} (hp : s.lcd.pending = none)
    (hb : s.busy = true) (hq : s.seq = plain (.set .en false) :: e' :: rest) (he : s.line.en = true)
    (hclr : s.line.srclr = true) :
    step s = .next { s with
      seq := e' :: rest
      trace := s.trace ++ [.set .en false]
      line := { s.line with en := false }
      lcd := { s.lcd with pending := some (presented s) }
      received := s.received ++ [presented s] } := by
  rw [step_advance hp hb hq]
  simp only [emit, plain, receiversReact, perform, PerRole.set, shiftRegister_same (l := s.line)
    (l' := { s.line with en := false }) hclr rfl, he, and_self, if_true]
  rfl

/-- A wait leaves everything but `SEQ` and the trace, and completes the operation if it is the last event. -/
theorem step_wait {s : State} {n : Nat} {rest : List SeqEntry} (hp : s.lcd.pending = none)
    (hb : s.busy = true) (hq : s.seq = plain (.wait n) :: rest) (hclr : s.line.srclr = true) :
    step s = .next { s with
      seq := rest
      busy := !rest.isEmpty
      oper := if rest.isEmpty then none else s.oper
      trace := s.trace ++ [.wait n] } := by
  have hf : ¬ (s.line.en = true ∧ s.line.en = false) := by cases s.line.en <;> simp
  cases rest with
  | nil =>
    rw [step_advance_last hp hb hq]
    simp [emit, plain, receiversReact, perform, shiftRegister_same hclr rfl, hf, finish]
  | cons e more =>
    rw [step_advance hp hb hq]
    simp [emit, plain, receiversReact, perform, shiftRegister_same hclr rfl, hf, hb]

/-- The first event of `INITIALIZE_DISPLAY`: a wait, and the controller's ghosts say that it has begun. -/
theorem step_initBegins {s : State} {n : Nat} {e' : SeqEntry} {rest : List SeqEntry} (hp : s.lcd.pending = none)
    (hb : s.busy = true) (hq : s.seq = ⟨.wait n, .initBegins⟩ :: e' :: rest) (hclr : s.line.srclr = true) :
    step s = .next { s with seq := e' :: rest, trace := s.trace ++ [.wait n], lcd := s.lcd.beginInit } := by
  have hf : ¬ (s.line.en = true ∧ s.line.en = false) := by cases s.line.en <;> simp
  rw [step_advance hp hb hq]
  simp [emit, beginInit, receiversReact, perform, shiftRegister_same hclr rfl, hf]

/-- The end of an enable pulse, from the event that lets `EN` fall: the controller takes what the lines and the shift register
present, executes it in a step of its own, and the post-wait ends the pulse. -/
theorem run_pulseTail {s : State} {rest : List SeqEntry} (hp : s.lcd.pending = none) (hb : s.busy = true)
    (hq : s.seq = plain (.set .en false) :: plain (.wait Config.tEnPostUs) :: rest)
    (he : s.line.en = true) (hclr : s.line.srclr = true) :
    ∃ l d, l.pending = none ∧
      (∀ u : State, u.lcd = { s.lcd with pending := some (presented s) } → u.receiverDraws = s.receiverDraws →
        step u = .next { u with lcd := l, receiverDraws := d }) ∧
      runSteps 3 s = .next { s with
        seq := rest
        busy := !rest.isEmpty
        oper := if rest.isEmpty then none else s.oper
        trace := s.trace ++ [.set .en false, .wait 100]
        line := { s.line with en := false }
        lcd := l
        receiverDraws := d
        received := s.received ++ [presented s] } := by
  obtain ⟨l, d, hl, hc⟩ := controller_step (l0 := { s.lcd with pending := some (presented s) }) s.receiverDraws rfl
  refine ⟨l, d, hl, hc, ?_⟩
  refine (runSteps_three (step_enableFalls hp hb hq he hclr) (hc _ rfl rfl) (step_wait hl hb rfl hclr)).trans ?_
  simp [Config.tEnPostUs]

/-- The run of one bus-transfer frame (30_encoding.md R61): 35 events and one step of the controller. -/
theorem run_busSeq {s : State} {rest : List SeqEntry} {rs : Bool} {x : Byte} (hp : s.lcd.pending = none)
    (hb : s.busy = true) (hq : s.seq = busSeq rs x ++ rest) (he : s.line.en = false) :
    ∃ l d, l.pending = none ∧
      (∀ u : State, u.lcd = { s.lcd with pending := some ⟨rs, Config.rwWrite, wired s.wiring x⟩ } →
        u.receiverDraws = s.receiverDraws → step u = .next { u with lcd := l, receiverDraws := d }) ∧
      runSteps 36 s = .next { s with
        seq := rest
        busy := !rest.isEmpty
        oper := if rest.isEmpty then none else s.oper
        trace := s.trace ++ busFrame rs x
        line := ⟨true, true, x.getLsbD 7, false, rs, Config.rwWrite⟩
        scratch := x
        stages := shifted x 8
        lcd := l
        receiverDraws := d
        received := s.received ++ [⟨rs, Config.rwWrite, wired s.wiring x⟩] } := by
  have hq' : s.seq = busHead rs x ++ plain (.set .en false) :: (plain (.wait Config.tEnPostUs) :: rest) := by
    rw [hq, busSeq_eq, List.append_assoc]; rfl
  have hrun := run_quiet (busHead rs x) hp hb hq' (allQuiet_busHead he rs x)
  rw [quietRun_busHead] at hrun
  have h33 : (busHead rs x).length = 33 := rfl
  rw [h33] at hrun
  obtain ⟨l, d, hl, hc, hr⟩ := run_pulseTail (s := { s with
      seq := plain (.set .en false) :: plain (.wait Config.tEnPostUs) :: rest
      trace := s.trace ++ eventsOf (busHead rs x)
      line := ⟨true, true, x.getLsbD 7, true, rs, Config.rwWrite⟩
      stages := shifted x 8
      scratch := x }) (rest := rest) hp hb rfl rfl rfl
  have hpres : dataBus s.wiring (shifted x 8) = wired s.wiring x := by rw [dataBus, parallelOut_shifted]
  simp only [presented, hpres] at hc hr
  refine ⟨l, d, hl, hc, ((runSteps_add (n := 3) hrun).trans hr).trans ?_⟩
  simp only [List.append_assoc]
  rfl

end Sys2Proof.Machine
end

