-- ==== Sys2Proof/Laws/Operations.lean ====
section
/-! SUPPORT. The runs of whole operations: a list of bus writes after an optional settle wait, TRANSMIT, PULSE_ENABLE. -/

namespace Sys2Proof.Machine

/-- What the controller makes of a list of transfers depends on the controller only. -/
theorem controllerExecutes_congr {ts : List Transfer} {s s' t : State} (h : controllerExecutes ts s t)
    (hl : s'.lcd = s.lcd) (hd : s'.receiverDraws = s.receiverDraws) : controllerExecutes ts s' t := by
  induction ts generalizing s s' with
  | nil => exact ⟨h.1.trans hl.symm, h.2.trans hd.symm⟩
  | cons tr rest ih =>
    obtain ⟨u, hu, hrest⟩ := h
    obtain ⟨l, d, -, hc⟩ := controller_step (l0 := { s.lcd with pending := some tr }) (tr := tr) s.receiverDraws rfl
    have h1 := hc { s with lcd := { s.lcd with pending := some tr } } rfl rfl
    rw [hu] at h1
    cases h1
    exact ⟨_, hc { s' with lcd := { s'.lcd with pending := some tr } } (by rw [hl]) hd, ih hrest rfl rfl⟩

/-- The entries of a list of bus writes, as (`RS`, byte put into the shift register). -/
def writesSeq (ws : List (Bool × Byte)) : List SeqEntry := ws.flatMap (fun w => busSeq w.1 w.2)

/-- What a list of bus writes leaves in the lines, `SCRATCH` and the shift register. -/
def afterWrites (ws : List (Bool × Byte)) (q : Quiet) : Quiet :=
  ws.foldl (fun _ w => ⟨⟨true, true, w.2.getLsbD 7, false, w.1, Config.rwWrite⟩, shifted w.2 8, w.2⟩) q

/-- The run of a list of bus writes: 35 events and one controller step each. -/
theorem run_writes (ws : List (Bool × Byte)) {s : State} {rest : List SeqEntry} (hp : s.lcd.pending = none)
    (hb : s.busy = !s.seq.isEmpty) (ho : s.seq = [] → s.oper = none)
    (hq : s.seq = writesSeq ws ++ rest) (he : s.line.en = false) :
    ∃ l d, l.pending = none ∧
      (∀ t : State, t.lcd = l → t.receiverDraws = d →
        controllerExecutes (ws.map (fun w => ⟨w.1, Config.rwWrite, wired s.wiring w.2⟩)) s t) ∧
      runSteps (36 * ws.length) s = .next { s with
        seq := rest
        busy := !rest.isEmpty
        oper := if rest.isEmpty then none else s.oper
        trace := s.trace ++ ws.flatMap (fun w => busFrame w.1 w.2)
        line := (afterWrites ws ⟨s.line, s.stages, s.scratch⟩).line
        stages := (afterWrites ws ⟨s.line, s.stages, s.scratch⟩).stages
        scratch := (afterWrites ws ⟨s.line, s.stages, s.scratch⟩).scratch
        lcd := l
        receiverDraws := d
        received := s.received ++ ws.map (fun w => ⟨w.1, Config.rwWrite, wired s.wiring w.2⟩) } := by
  induction ws generalizing s with
  | nil =>
    refine ⟨s.lcd, s.receiverDraws, hp, fun t h1 h2 => ⟨h1, h2⟩, ?_⟩
    have hq : s.seq = rest := hq
    subst hq
    have hoper : (if s.seq.isEmpty then none else s.oper) = s.oper := by
      cases hs : s.seq with
      | nil => exact (ho hs).symm
      | cons => rfl
    rw [hoper, ← hb]
    simp [afterWrites]
  | cons w ws ih =>
    have hq' : s.seq = busSeq w.1 w.2 ++ (writesSeq ws ++ rest) := by
      rw [hq, writesSeq, List.flatMap_cons, List.append_assoc]; rfl
    have hb' : s.busy = true := by rw [hb, hq']; rfl
    obtain ⟨l, d, hl, hc, hr⟩ := run_busSeq hp hb' hq' he
    obtain ⟨l', d', hl', hc', hr'⟩ := ih (s := { s with
        seq := writesSeq ws ++ rest
        busy := !(writesSeq ws ++ rest).isEmpty
        oper := if (writesSeq ws ++ rest).isEmpty then none else s.oper
        trace := s.trace ++ busFrame w.1 w.2
        line := ⟨true, true, w.2.getLsbD 7, false, w.1, Config.rwWrite⟩
        scratch := w.2
        stages := shifted w.2 8
        lcd := l
        receiverDraws := d
        received := s.received ++ [⟨w.1, Config.rwWrite, wired s.wiring w.2⟩] }) hl rfl
      (fun h => by simp only at h; simp [h]) rfl rfl
    refine ⟨l', d', hl', fun t h1 h2 => ?_, ?_⟩
    · refine ⟨_, hc _ rfl rfl, ?_⟩
      exact controllerExecutes_congr (hc' t h1 h2) rfl rfl
    · have hlen : 36 * (w :: ws).length = 36 + 36 * ws.length := by simp; omega
      rw [hlen, runSteps_add hr, hr']
      have hoper : (if rest.isEmpty then none else if (writesSeq ws ++ rest).isEmpty then none else s.oper) =
          (if rest.isEmpty then none else s.oper) := by
        cases rest <;> simp
      simp only [hoper, List.append_assoc, List.flatMap_cons, List.map_cons]
      rfl

/-- The bytes put into the shift register for a list of bus writes under a value of `MIRRORED`. -/
def mirroredWrites (m : Bool) (writes : List (Bool × Byte)) : List (Bool × Byte) :=
  writes.map (fun w => (w.1, mirrorIf m w.2))

theorem afterWrites_last (m : Bool) (writes : List (Bool × Byte)) (q : Quiet) :
    afterWrites (mirroredWrites m writes) q =
      match writes.getLast? with
      | none => q
      | some w => ⟨⟨true, true, (mirrorIf m w.2).getLsbD 7, false, w.1, Config.rwWrite⟩, shifted (mirrorIf m w.2) 8,
          mirrorIf m w.2⟩ := by
  induction writes using List.reverseRecOn with
  | nil => rfl
  | append_singleton ws w ih => simp [afterWrites, mirroredWrites]

/-- The bus writes of an operation, once they are all that is left of it, run to completion. -/
theorem run_lastWrites {s : State} {writes : List (Bool × Byte)} (o : Option Instr) (lead : List Event)
    (hc : s.lcd.pending = none) (he : s.line.en = false) :
    ∃ t, runSteps (36 * writes.length) { s with
        seq := writesSeq (mirroredWrites s.mirrored writes)
        busy := !(writesSeq (mirroredWrites s.mirrored writes)).isEmpty
        oper := if (writesSeq (mirroredWrites s.mirrored writes)).isEmpty then none else o
        trace := s.trace ++ lead } = .next t ∧ t.lcd.pending = none ∧ busRun lead writes s t := by
  obtain ⟨l, d, hl, hex, hrun⟩ := run_writes (mirroredWrites s.mirrored writes) (s := { s with
      seq := writesSeq (mirroredWrites s.mirrored writes)
      busy := !(writesSeq (mirroredWrites s.mirrored writes)).isEmpty
      oper := if (writesSeq (mirroredWrites s.mirrored writes)).isEmpty then none else o
      trace := s.trace ++ lead }) (rest := []) hc rfl (fun h => by simp only at h; simp [h]) (by simp) he
  have hlen : (mirroredWrites s.mirrored writes).length = writes.length := by simp [mirroredWrites]
  have hsent : (mirroredWrites s.mirrored writes).map (fun w => (⟨w.1, Config.rwWrite, wired s.wiring w.2⟩ : Transfer)) =
      writes.map (sent s) := by
    simp [mirroredWrites, sent]
  rw [hlen] at hrun
  simp only [hsent] at hex hrun
  refine ⟨_, hrun, hl, ⟨?_, rfl, rfl, rfl, rfl, rfl, rfl, rfl, rfl, rfl, rfl, rfl⟩, ?_, rfl, ?_⟩
  · simp [mirroredWrites, List.flatMap_map, List.append_assoc]
  · rw [afterWrites_last]
    cases hlast : writes.getLast? with
    | none => exact ⟨rfl, rfl, rfl⟩
    | some w => exact ⟨rfl, rfl, parallelOut_shifted _⟩
  · exact controllerExecutes_congr (hex _ rfl rfl) rfl rfl

/-- An operation that makes bus writes, and is not `INITIALIZE_DISPLAY`, runs to completion (30_encoding.md R73): the settle
wait, if it has one, is one step, each write 36. -/
theorem run_operation {i : Instr} {s : State} {writes : List (Bool × Byte)} (settle : Bool) (h : Ready s)
    (hi : isOperation i = true) (hs : isSetup i = false)
    (hes : entriesOf s.mirrored i = (if settle then settleSeq else []) ++ writesSeq (mirroredWrites s.mirrored writes)) :
    ∃ a t, exec i s = .next a ∧ runSteps ((if settle then 1 else 0) + 36 * writes.length) a = .next t ∧
      t.lcd.pending = none ∧ busRun (if settle then [.wait 2000] else []) writes s t := by
  obtain ⟨hc, hb, hp, -, hclr, he, -⟩ := h
  refine ⟨accept i (entriesOf s.mirrored i) s, ?_⟩
  rw [exec_eq_issue s hi hs, issue_ready hc hb he, accept_eq]
  cases settle with
  | false =>
    have hes' : entriesOf s.mirrored i = writesSeq (mirroredWrites s.mirrored writes) := hes
    rw [hes']
    obtain ⟨t, ht⟩ := run_lastWrites (s := s) (writes := writes) (some i) [] hp he
    exact ⟨t, rfl, by simpa using ht.1, ht.2⟩
  | true =>
    have hes' : entriesOf s.mirrored i =
        plain (.wait 2000) :: writesSeq (mirroredWrites s.mirrored writes) := hes
    rw [hes']
    obtain ⟨t, ht⟩ := run_lastWrites (s := s) (writes := writes) (some i) [.wait 2000] hp he
    refine ⟨t, rfl, ?_, ht.2⟩
    have hstep := step_wait (s := { s with
      seq := plain (.wait 2000) :: writesSeq (mirroredWrites s.mirrored writes), busy := true, oper := some i })
      hp rfl rfl hclr
    rw [if_pos rfl, Nat.add_comm]
    exact (runSteps_succ hstep).trans ht.1

/-- The three mode commands, in order (45_display_operations.md R130). -/
def initWrites : List (Bool × Byte) :=
  [(Config.rsCmd, Config.cmdEntryMode), (Config.rsCmd, Config.cmdDisplayCtrl), (Config.rsCmd, Config.cmdFunctionSet)]

/-- `INITIALIZE_DISPLAY` runs to completion (R130): its first event tells the controller's ghosts, then the three commands run as
bus writes. -/
theorem run_initializeDisplay {s : State} (h : Ready s) :
    ∃ a t, exec .initializeDisplay s = .next a ∧ runSteps 109 a = .next t ∧
      t.lcd.pending = none ∧ busRun [.wait 2000] initWrites (beginInit s) t := by
  obtain ⟨hc, hb, hp, -, hclr, he, -⟩ := h
  refine ⟨accept .initializeDisplay (entriesOf s.mirrored .initializeDisplay) s, ?_⟩
  rw [exec_eq_issue s rfl rfl, issue_ready hc hb he, accept_eq]
  have hes : entriesOf s.mirrored .initializeDisplay =
      ⟨.wait 2000, .initBegins⟩ :: writesSeq (mirroredWrites s.mirrored initWrites) := by
    simp [entriesOf, initializeDisplaySeq, initSettleSeq, commandSeq, writesSeq, mirroredWrites, initWrites,
      Config.tSettleUs]
  obtain ⟨e', rest, hcons⟩ : ∃ e' rest, writesSeq (mirroredWrites s.mirrored initWrites) = e' :: rest := ⟨_, _, rfl⟩
  obtain ⟨t, ht⟩ := run_lastWrites (s := beginInit s) (writes := initWrites) (some .initializeDisplay) [.wait 2000]
    (by simpa using hp) he
  refine ⟨t, rfl, ?_, ht.2⟩
  have hstep := step_initBegins (s := { s with
    seq := ⟨.wait 2000, .initBegins⟩ :: writesSeq (mirroredWrites s.mirrored initWrites), busy := true
    oper := some .initializeDisplay }) hp rfl (by rw [hcons]) hclr
  rw [hes]
  refine (runSteps_succ (n := 108) hstep).trans ?_
  have hr := ht.1
  simp only [beginInit_mirrored, hcons] at hr
  exact hr

/-- `TRANSMIT` runs to completion (41_shift_register_transport.md R90): 27 events, no transfer. -/
theorem run_transmit {s : State} (b : Byte) (h : Ready s) :
    ∃ a, exec (.transmit b) s = .next a ∧
      runSteps 27 a = .next { s with
        seq := []
        busy := false
        oper := none
        trace := s.trace ++ serialFrame b
        line := { s.line with srclk := true, srclr := true, srdat := b.getLsbD 7 }
        stages := shifted b 8
        scratch := b } := by
  obtain ⟨hc, hb, hp, -, hclr, he, -⟩ := h
  refine ⟨accept (.transmit b) (transmitSeq b) s, ?_, ?_⟩
  · exact issue_ready hc hb he
  · have hsplit : transmitSeq b = (transmitSeq b).take 26 ++ plain (.set .srclk true) :: [] := rfl
    have hrun := run_quiet ((transmitSeq b).take 26) (s := accept (.transmit b) (transmitSeq b) s)
      (e' := plain (.set .srclk true)) (rest := []) hp rfl rfl (by
        obtain ⟨⟨ck, cl, dt, en, rs, rw⟩⟩ := s
        simp only at he
        subst he
        rfl)
    have h26 : ((transmitSeq b).take 26).length = 26 := rfl
    rw [h26] at hrun
    refine (runSteps_add (n := 1) hrun).trans ?_
    have hall := quietRun_transmitSeq s.line s.stages s.scratch b
    rw [hsplit, quietRun_append] at hall
    generalize hqr : quietRun ⟨s.line, s.stages, s.scratch⟩ ((transmitSeq b).take 26) = q at hall
    have hacc : quietRun ⟨(accept (.transmit b) (transmitSeq b) s).line, (accept (.transmit b) (transmitSeq b) s).stages,
        (accept (.transmit b) (transmitSeq b) s).scratch⟩ ((transmitSeq b).take 26) = q := hqr
    have hen : q.line.en = false := by
      rw [← hqr]
      obtain ⟨⟨ck, cl, dt, en, rs, rw⟩⟩ := s
      exact he
    have hall' : quietStep q (plain (.set .srclk true)) =
        ⟨{ s.line with srclk := true, srclr := true, srdat := b.getLsbD 7 }, shifted b 8, b⟩ := hall
    rw [hacc]
    refine (runSteps_succ (step_advance_last ?_ ?_ rfl)).trans ?_
    · exact hp
    · rfl
    · have hf : ¬ (q.line.en = true ∧ (applyEvent q.line (.set .srclk true)).en = false) := by simp [hen]
      simp only [runSteps_zero, emit, plain, receiversReact, perform_line, if_neg hf]
      simp only [quietStep, plain, Quiet.mk.injEq] at hall'
      obtain ⟨hl1, hl2, hl3⟩ := hall'
      simp only [perform, finish]
      rw [hl2, hl1, hl3, List.append_assoc]
      rfl

/-! ### The operand latches steer nothing -/

theorem receiversReact_withOper (l : PerRole Bool) (s : State) (o : Option Instr) :
    receiversReact l { s with oper := o } = { receiversReact l s with oper := o } := by
  by_cases h : l.en = true ∧ s.line.en = false
  · simp only [receiversReact, if_pos h]; rfl
  · simp only [receiversReact, if_neg h]

/-- Carrying out an entry reads nothing from the operand latches. -/
theorem emit_withOper (e : SeqEntry) (s : State) (o : Option Instr) :
    emit e { s with oper := o } = { emit e s with oper := o } := by
  obtain ⟨ev, eff⟩ := e
  cases eff with
  | plain => exact Eq.trans (by cases ev <;> rfl) (receiversReact_withOper s.line (perform ev s) o)
  | stage b => exact Eq.trans (by cases ev <;> rfl) (receiversReact_withOper s.line (perform ev (stageByte b s)) o)
  | initBegins =>
    have hp : perform ev { s with oper := o } = { perform ev s with oper := o } := by cases ev <;> rfl
    simp only [emit, hp, receiversReact_withOper, beginInit]
  | _ => cases ev <;> rfl

/-- A step of a busy block reads nothing from the operand latches: with other latches it leaves the same state, but for the
latches while the operation goes on. -/
theorem step_withOper {s t : State} (o : Option Instr) (hb : s.busy = true) (h : step s = .next t) :
    (t.busy = true ∧ step { s with oper := o } = .next { t with oper := o }) ∨
      (t.busy = false ∧ step { s with oper := o } = .next t) := by
  obtain ⟨tr, hp, ht, -⟩ | ⟨hp, -, rfl⟩ | ⟨-, hb', -⟩ | ⟨-, hb', -⟩ := step_next_cases h
  · have hbt : t.busy = true := by rw [ht]; exact hb
    refine .inl ⟨hbt, ?_⟩
    rw [step_pending_congr (s := s) (s' := { s with oper := o }) hp rfl rfl h, ht]
  · have hs : step { s with oper := o } = .next (advance { s with oper := o }) := by simp [step, fetch, hp, hb]
    rw [hs]
    cases hq : s.seq with
    | nil => exact .inr ⟨by simp [advance, hq, finish], by simp [advance, hq, finish]⟩
    | cons e rest =>
      cases rest with
      | nil =>
        refine .inr ⟨by simp [advance, hq, finish], ?_⟩
        simp only [advance, hq]
        rw [emit_withOper e { s with seq := [] } o]
        rfl
      | cons e' more =>
        refine .inl ⟨by simp [advance, hq, hb], ?_⟩
        simp only [advance, hq]
        rw [emit_withOper e { s with seq := e' :: more } o]
  · rw [hb] at hb'; cases hb'
  · rw [hb] at hb'; cases hb'

/-- A run that ends idle ends in the same state whatever the operand latches held. -/
theorem runSteps_withOper {n : Nat} {s t : State} (o : Option Instr) (hb : s.busy = true) (ht : t.busy = false)
    (h : runSteps n s = .next t) : runSteps n { s with oper := o } = .next t := by
  induction n generalizing s with
  | zero => simp only [runSteps] at h; cases h; rw [hb] at ht; cases ht
  | succ n ih =>
    simp only [runSteps] at h
    split at h
    · obtain ⟨hu, h1⟩ | ⟨-, h1⟩ := step_withOper o hb ‹_›
      · rw [runSteps_succ h1]; exact ih hu h
      · rw [runSteps_succ h1]; exact h
    · cases h
    · cases h
end Sys2Proof.Machine
end

