-- ==== Sys2Proof/Laws/PerInstr.lean ====
section
/-! SUPPORT. Statements about every instruction as syntax, one lemma per constructor. -/

namespace Sys2Proof.Laws.EncodedForm

/-- A well-formed operation is a request whose word says how many payload bytes follow (30_encoding.md R54); a controller
command is one byte. -/
def Statement (i : Instr) : Prop :=
  i.wf = true →
    match encode i with
    | .request w payload => Machine.isOperation i = true ∧ payloadCount w = payload.length
    | .command _ => Machine.isOperation i = false

theorem setup (pins : PerRole PinId) (mirrored : Bool) : Statement (.setup pins mirrored) :=
  fun _ => ⟨rfl, by simp [payloadCount, opField_requestWord, pinBytes]⟩
theorem transmit (b : Byte) : Statement (.transmit b) := fun _ => ⟨rfl, by simp [payloadCount, opField_requestWord]⟩
theorem pulseEnable : Statement .pulseEnable := fun _ => ⟨rfl, by simp [payloadCount, opField_requestWord]⟩
theorem writeCommand (b : Byte) : Statement (.writeCommand b) :=
  fun _ => ⟨rfl, by simp [payloadCount, opField_requestWord]⟩
theorem writeData (b : Byte) : Statement (.writeData b) := fun _ => ⟨rfl, by simp [payloadCount, opField_requestWord]⟩
theorem setDdramAddr (addr : Nat) : Statement (.setDdramAddr addr) :=
  fun _ => ⟨rfl, by simp [payloadCount, opField_requestWord]⟩
theorem setCgramAddr (addr : Nat) : Statement (.setCgramAddr addr) :=
  fun _ => ⟨rfl, by simp [payloadCount, opField_requestWord]⟩
theorem goto (column : Nat) (row : Nat) : Statement (.goto column row) :=
  fun _ => ⟨rfl, by simp [payloadCount, opField_requestWord]⟩
theorem initializeDisplay : Statement .initializeDisplay := fun _ => ⟨rfl, by simp [payloadCount, opField_requestWord]⟩
theorem clearDisplay : Statement .clearDisplay := fun _ => ⟨rfl, by simp [payloadCount, opField_requestWord]⟩
theorem createCustomChar (slot : Nat) (glyph : Glyph) : Statement (.createCustomChar slot glyph) :=
  fun _ => ⟨rfl, by simp [payloadCount, opField_requestWord, glyphBytes]⟩
theorem drawStr (text : List Byte) : Statement (.drawStr text) := by
  intro h
  exact ⟨rfl, payloadCount_textWord (by simpa [Instr.wf, fitsLength] using h)⟩
theorem lcdClearDisplay : Statement .lcdClearDisplay := fun _ => rfl
theorem lcdReturnHome : Statement .lcdReturnHome := fun _ => rfl
theorem lcdEntryModeSet (i : Bool) (s : Bool) : Statement (.lcdEntryModeSet i s) := fun _ => rfl
theorem lcdDisplayControl (d : Bool) (c : Bool) (b : Bool) : Statement (.lcdDisplayControl d c b) := fun _ => rfl
theorem lcdFunctionSet (l : Bool) (n : Bool) (f : Bool) : Statement (.lcdFunctionSet l n f) := fun _ => rfl
theorem lcdSetCgramAddr (addr : BitVec 6) : Statement (.lcdSetCgramAddr addr) := fun _ => rfl
theorem lcdSetDdramAddr (addr : BitVec 7) : Statement (.lcdSetDdramAddr addr) := fun _ => rfl

/-- The statement holds of every instruction. -/
theorem all (i : Instr) : Statement i := by
  cases i <;> simp only [setup, transmit, pulseEnable, writeCommand, writeData, setDdramAddr, setCgramAddr, goto,
    initializeDisplay, clearDisplay, createCustomChar, drawStr, lcdClearDisplay, lcdReturnHome, lcdEntryModeSet,
    lcdDisplayControl, lcdFunctionSet, lcdSetCgramAddr, lcdSetDdramAddr]

end Sys2Proof.Laws.EncodedForm
end

