-- ==== Sys2Proof/Tests/Slice0.lean ====
section
/-! SUPPORT. Tests: ill-formed terms, words written out from the spec's encodings, single steps with expected results from
95_test_vectors.md and the rules named, and a witness for the hypotheses of each statement. -/

open Sys2Proof Sys2Proof.Machine

namespace Sys2Proof.Tests

/-! ### Helpers -/

/-- The block right after `SETUP` (10_state.md R28), wired straight; `INITIALIZE_DISPLAY` has begun once, first. -/
def readyState : State :=
  { State.reset with
    line := ⟨true, true, false, false, false, false⟩
    configured := true
    wiring := .identity
    lcd := { Lcd.powerOn with initBegun := true, order := .once } }

/-- The same before `INITIALIZE_DISPLAY`. -/
def rawState : State := { readyState with lcd := Lcd.powerOn }

/-- `readyState` with a mirror wiring and `MIRRORED = 1`. -/
def mirroredState : State := { readyState with wiring := .mirror, mirrored := true }

/-- A state in the middle of `PULSE_ENABLE`, with these events still to come. -/
def busyState (es : List SeqEntry) : State := { readyState with busy := true, oper := some .pulseEnable, seq := es }

/-- The controller holds a transfer to execute. -/
def pendingState (tr : Transfer) : State := { readyState with lcd := { readyState.lcd with pending := some tr } }

/-- The next state of an outcome, if there is one. -/
def nextOf (o : Host.Outcome State Fault Refusal) : Option State :=
  match o with
  | .next t => some t
  | .fault _ => none
  | .refused _ => none

/-- The refusal of an outcome, if there is one. -/
def refusalOf (o : Host.Outcome State Fault Refusal) : Option Refusal :=
  match o with
  | .next _ => none
  | .fault _ => none
  | .refused r => some r

def glyph1 : Glyph := ⟨0x00, 0x0A, 0x1F, 0x1F, 0x0E, 0x04, 0x00, 0x00⟩

def glyphFF : Glyph := ⟨0xFF, 0xFF, 0xFF, 0xFF, 0xFF, 0xFF, 0xFF, 0xFF⟩

/-! ### Ill-formed terms are refused (30_encoding.md R53, R54) -/

theorem test_wf_setDdramAddr : Instr.wf (.setDdramAddr 256) = false ∧ Instr.wf (.setDdramAddr 255) = true := by decide
theorem test_wf_setCgramAddr : Instr.wf (.setCgramAddr 256) = false ∧ Instr.wf (.setCgramAddr 255) = true := by decide
theorem test_wf_goto_column : Instr.wf (.goto 256 0) = false := by decide
theorem test_wf_goto_row : Instr.wf (.goto 0 256) = false ∧ Instr.wf (.goto 255 255) = true := by decide
theorem test_wf_createCustomChar : Instr.wf (.createCustomChar 256 glyph1) = false := by decide
theorem test_wf_drawStr : ∀ text : List Byte, text.length = 65536 → Instr.wf (.drawStr text) = false := by
  intro text h; simp [Instr.wf, fitsLength, h]

/-! ### Words written out from the encodings: op A B, bit 19 first (30_encoding.md R52, R53; 95_test_vectors.md section 2) -/

theorem test_decode_setup :
    decodeRequest 0b0000_00000000_00000001 [10, 11, 12, 13, 14, 15, 99] =
      .ok (.setup ⟨10, 11, 12, 13, 14, 15⟩ true) [99] := by decide
theorem test_decode_setup_payload :
    decodeRequest 0b0000_00000000_00000001 [10, 11, 12, 13, 14] = .payloadMissing 6 := by decide
theorem test_decode_transmit : decodeRequest 0b0001_10100101_00000000 [] = .ok (.transmit 0b10100101) [] := by decide
theorem test_decode_pulseEnable : decodeRequest 0b0010_00000000_00000000 [7] = .ok .pulseEnable [7] := by decide
theorem test_decode_writeCommand : decodeRequest 0b0011_10100101_11111111 [] = .ok (.writeCommand 0xA5) [] := by decide
theorem test_decode_writeData : decodeRequest 0b0100_01000001_00000000 [] = .ok (.writeData 0x41) [] := by decide
theorem test_decode_setDdramAddr : decodeRequest 0b0101_01000101_00000000 [] = .ok (.setDdramAddr 0x45) [] := by decide
theorem test_decode_setCgramAddr : decodeRequest 0b0110_11111111_00000000 [] = .ok (.setCgramAddr 0xFF) [] := by decide
theorem test_decode_goto : decodeRequest 0b0111_00000101_00000001 [] = .ok (.goto 5 1) [] := by decide
theorem test_decode_initializeDisplay : decodeRequest 0b1000_00000000_00000000 [] = .ok .initializeDisplay [] := by decide
theorem test_decode_clearDisplay : decodeRequest 0b1001_00000000_00000000 [] = .ok .clearDisplay [] := by decide
theorem test_decode_createCustomChar :
    decodeRequest 0b1010_00001011_00000000 [0x00, 0x0A, 0x1F, 0x1F, 0x0E, 0x04, 0x00, 0x00] =
      .ok (.createCustomChar 11 glyph1) [] := by decide
theorem test_decode_drawStr :
    decodeRequest 0b1011_00000000_00000010 [0x48, 0x69, 0x21] = .ok (.drawStr [0x48, 0x69]) [0x21] := by decide
/-- `N = {A, B}`: `A` is the high byte (R53). -/
theorem test_decode_drawStr_length : decodeRequest 0b1011_00000001_00000010 [0x48] = .payloadMissing 258 := by decide
theorem test_decode_reserved :
    decodeRequest 0xC0000 [] = .reservedOperation 0xC ∧ decodeRequest 0xFFFFF [] = .reservedOperation 0xF := by decide
theorem test_decode_lcdClearDisplay : decodeCommand 0b00000001 = .ok .lcdClearDisplay := by decide
theorem test_decode_lcdReturnHome : decodeCommand 0b00000010 = .ok .lcdReturnHome := by decide
theorem test_decode_lcdEntryModeSet : decodeCommand 0b00000101 = .ok (.lcdEntryModeSet false true) := by decide
theorem test_decode_lcdDisplayControl : decodeCommand 0b00001011 = .ok (.lcdDisplayControl false true true) := by decide
theorem test_decode_lcdFunctionSet : decodeCommand 0b00110100 = .ok (.lcdFunctionSet true false true) := by decide
theorem test_decode_lcdSetCgramAddr : decodeCommand 0b01100001 = .ok (.lcdSetCgramAddr 0b100001) := by decide
theorem test_decode_lcdSetDdramAddr : decodeCommand 0b11000101 = .ok (.lcdSetDdramAddr 0b1000101) := by decide
theorem test_decode_unknown : decodeCommand 0x00 = .unknownCommand 0x00 ∧ decodeCommand 0x03 = .unknownCommand 0x03 ∧
    decodeCommand 0x10 = .unknownCommand 0x10 ∧ decodeCommand 0x21 = .unknownCommand 0x21 := by decide

/-! ### Operands (95_test_vectors.md sections 2.2, 2.5, 2.6) -/

theorem test_mirror : mirror 0xA5 = 0x93 ∧ mirror 0x02 = 0x20 ∧ mirror 0x41 = 0x88 ∧ mirror 0xC5 = 0x99 ∧
    mirror 0x43 = 0xA8 := by decide
theorem test_goto_bytes :
    ddramCommand (gotoAddress 5 1) = 0xC5 ∧ ddramCommand (gotoAddress 64 1) = 0x80 ∧
      ddramCommand (gotoAddress 127 1) = 0xBF ∧ ddramCommand (gotoAddress 255 255) = 0xBF := by decide
theorem test_slot_bytes : cgramCommand (slotAddress 11) = 0x43 ∧ cgramCommand (slotAddress 8) = 0x40 ∧
    cgramCommand 0x7F = 0x7F := by decide
theorem test_cfg :
    State.cfg { readyState with phys := ⟨1, 2, 3, 4, 5, 6⟩, logi := ⟨7, 8, 9, 10, 11, 12⟩, mirrored := true } =
      0x0C0B0A09080706050403020101 := by decide

/-! ### Single steps: an operation is accepted with its whole event list (70_reset_and_hazards.md R181) -/

theorem test_setup_accepted :
    (nextOf (exec (.setup ⟨10, 11, 12, 13, 14, 15⟩ true) State.reset)).map
      (fun t => (t.seq.length, t.busy, t.phys, t.mirrored, t.configured)) =
      some (18, true, ⟨10, 11, 12, 13, 14, 15⟩, true, false) := by decide
theorem test_transmit_staged :
    stagedBytes (transmitSeq 0xA5) = [0xA5] ∧ (nextOf (exec (.transmit 0xA5) mirroredState)).map
      (fun t => (t.seq.length, t.scratch)) = some (27, 0) := by decide
theorem test_pulseEnable_accepted :
    (nextOf (exec .pulseEnable readyState)).map (fun t => eventsOf t.seq) =
      some [.set .en false, .wait 1, .set .en true, .wait 80, .set .en false, .wait 100] := by decide
theorem test_writeCommand_accepted :
    (nextOf (exec (.writeCommand 0x38) mirroredState)).map (fun t => (t.seq.length, stagedBytes t.seq)) =
      some (35, [0x46]) := by decide
theorem test_writeData_accepted :
    (nextOf (exec (.writeData 0x41) mirroredState)).map (fun t => ((eventsOf t.seq).head?, stagedBytes t.seq)) =
      some (some (.set .rs true), [0x88]) := by decide
theorem test_setDdramAddr_accepted :
    (nextOf (exec (.setDdramAddr 0x80) readyState)).map (fun t => (t.seq.length, stagedBytes t.seq)) =
      some (35, [0x80]) := by decide
theorem test_setCgramAddr_accepted :
    (nextOf (exec (.setCgramAddr 0x40) readyState)).map (fun t => (t.seq.length, stagedBytes t.seq)) =
      some (35, [0x40]) := by decide
theorem test_goto_accepted :
    (nextOf (exec (.goto 5 1) mirroredState)).map (fun t => ((eventsOf t.seq).head?, t.seq.length, stagedBytes t.seq)) =
      some (some (.wait 2000), 36, [0x99]) := by decide
theorem test_initializeDisplay_accepted :
    (nextOf (exec .initializeDisplay mirroredState)).map (fun t => (t.seq.length, stagedBytes t.seq)) =
      some (106, [0x30, 0x50, 0x46]) := by decide
theorem test_clearDisplay_accepted :
    (nextOf (exec .clearDisplay mirroredState)).map (fun t => (t.seq.length, stagedBytes t.seq)) =
      some (71, [0x80, 0x20]) := by decide
theorem test_createCustomChar_accepted :
    (nextOf (exec (.createCustomChar 11 glyph1) readyState)).map (fun t => stagedBytes t.seq) =
      some [0x43, 0x00, 0x0A, 0x1F, 0x1F, 0x0E, 0x04, 0x00, 0x00] := by decide
/-- The high bits of glyph bytes are kept (R138). -/
theorem test_createCustomChar_rows :
    stagedBytes (createCustomCharSeq false 7 glyphFF) =
      [0x47, 0xFF, 0xFF, 0xFF, 0xFF, 0xFF, 0xFF, 0xFF, 0xFF] := by decide
/-- 0x00 is data, not a terminator (R140). -/
theorem test_drawStr_accepted :
    (nextOf (exec (.drawStr [0x00, 0x41]) readyState)).map (fun t => (t.seq.length, stagedBytes t.seq)) =
      some (70, [0x00, 0x41]) := by decide

/-! ### Single steps: the commands of the controller (20_memory.md R44) -/

theorem test_lcdClearDisplay :
    (nextOf (exec .lcdClearDisplay readyState)).map
      (fun t => (t.lcd.ddram.read 0x27, t.lcd.ddram.read 0x28, t.lcd.ddram.read 0x67, t.lcd.ddram.length)) =
      some (some 0x20, none, some 0x20, 80) := by decide
theorem test_lcdReturnHome :
    (nextOf (exec .lcdReturnHome { readyState with lcd := { readyState.lcd with ac := 5, sel := .cgram } })).map
      (fun t => (t.lcd.ac, t.lcd.sel)) = some (0, .ddram) := by decide
theorem test_lcdEntryModeSet :
    (nextOf (exec (.lcdEntryModeSet false true) readyState)).map (fun t => (t.lcd.inc, t.lcd.shift)) =
      some (false, true) := by decide
theorem test_lcdDisplayControl :
    (nextOf (exec (.lcdDisplayControl true false true) readyState)).map
      (fun t => (t.lcd.displayOn, t.lcd.cursorOn, t.lcd.blinkOn)) = some (true, false, true) := by decide
theorem test_lcdFunctionSet :
    (nextOf (exec (.lcdFunctionSet false true true) readyState)).map
      (fun t => (t.lcd.bus8, t.lcd.twoLine, t.lcd.font10)) = some (false, true, true) := by decide
theorem test_lcdSetCgramAddr :
    (nextOf (exec (.lcdSetCgramAddr 0x3F) readyState)).map (fun t => (t.lcd.ac, t.lcd.sel)) =
      some (0x3F, .cgram) := by decide
theorem test_lcdSetDdramAddr :
    (nextOf (exec (.lcdSetDdramAddr 0x45) readyState)).map (fun t => (t.lcd.ac, t.lcd.sel)) =
      some (0x45, .ddram) := by decide

/-! ### Single steps: lines, receivers, port -/

/-- A rising clock edge shifts the data line into stage 0 (20_memory.md R40). -/
theorem test_step_shift :
    (nextOf (step { busyState [plain (.set .srclk true), plain (.wait 1)] with
      line := ⟨false, true, true, false, false, false⟩, stages := 0b10000001 })).map
      (fun t => (t.stages, t.line.srclk, t.trace)) = some (0b00000011, true, [.set .srclk true]) := by decide
/-- A clear empties it whatever the clock does (R40). -/
theorem test_step_clear :
    (nextOf (step { busyState [plain (.set .srclr false), plain (.wait 1)] with stages := 0xFF })).map
      (fun t => t.stages) = some 0 := by decide
/-- The parallel output is read from stage 7 down (R41), through the wiring (R42), when `EN` falls (R43). -/
theorem test_step_takes :
    (nextOf (step { busyState [plain (.set .en false), plain (.wait 100)] with
      line := ⟨true, true, true, true, true, false⟩, stages := 0b10000010, wiring := .mirror })).map
      (fun t => t.lcd.pending) = some (some ⟨true, false, 0x88⟩) := by decide
/-- The second address row follows the first in 2-line mode (R44). -/
theorem test_step_data :
    (nextOf (step { readyState with
      lcd := { readyState.lcd with pending := some ⟨true, false, 0x41⟩, ac := 0x27, twoLine := true } })).map
      (fun t => (t.lcd.ddram, t.lcd.ac, t.lcd.pending)) = some ([(0x27, 0x41)], 0x40, none) := by decide
/-- A command byte with no stated effect leaves no byte of DDRAM with a value (log 11). -/
theorem test_step_unknown :
    (nextOf (step { readyState with
      lcd := { readyState.lcd with pending := some ⟨false, false, 0x10⟩, ddram := [(0, 1)] } })).map
      (fun t => (t.lcd.ddram, t.receiverDraws)) = some ([], 1) := by decide
/-- Before `INITIALIZE_DISPLAY` no command's effect is known, and the conventional order is broken (70_reset_and_hazards.md R172,
R180; U2). -/
theorem test_clear_before_initialize :
    (nextOf (exec .lcdClearDisplay rawState)).map (fun t => (t.lcd.ddram, t.lcd.initBegun, t.lcd.order)) =
      some ([], false, .broken) := by decide
/-- `INITIALIZE_DISPLAY` a second time (U2: "or twice"): no byte is known any more; the first time the memories stay. -/
theorem test_initialize_twice :
    (nextOf (step { busyState initSettleSeq with lcd := { readyState.lcd with ddram := [(0, 1)] } })).map
      (fun t => (t.lcd.ddram, t.lcd.order)) = some ([], .broken) ∧
    (nextOf (step { busyState initSettleSeq with lcd := Lcd.powerOn })).map
      (fun t => (t.lcd.initBegun, t.lcd.order)) = some (true, .once) := by decide
/-- The last event of `SETUP`: nothing is known of the controller until `INITIALIZE_DISPLAY` (R180). -/
theorem test_setup_forgets :
    (nextOf (step (busyState [⟨.set .rw false, .configure⟩]))).map
      (fun t => (t.configured, t.lcd.initBegun, t.lcd.order)) = some (true, false, .once) := by decide
/-- After the last event the operation is complete (10_state.md R20). -/
theorem test_step_completes :
    (nextOf (step (busyState [plain (.wait 100)]))).map (fun t => (t.busy, t.oper, t.seq)) =
      some (false, none, []) := by decide
/-- An operation before `SETUP` is refused (60_exceptions.md R156). -/
theorem test_refused_before_setup : refusalOf (exec (.writeData 0x41) State.reset) = some .notConfigured := by decide
/-- A request at the port before its payload is complete waits (30_encoding.md R54). -/
theorem test_step_payload_waits :
    (nextOf (step { readyState with requests := [0xB0002], payload := [0x48] })).map (fun t => (t.busy, t.requests)) =
      some (false, [0xB0002]) := by decide

/-! ### Witnesses: states and operands that meet the hypotheses of each statement -/

theorem readyState_ready : Ready readyState := ⟨rfl, rfl, rfl, rfl, rfl, rfl, rfl⟩
theorem mirroredState_ready : Ready mirroredState := ⟨rfl, rfl, rfl, rfl, rfl, rfl, rfl⟩
theorem readyState_matched : matched readyState = true := by decide
theorem mirroredState_matched : matched mirroredState = true := by decide
theorem readyState_inv : Inv readyState :=
  ⟨.inl ⟨rfl, rfl, rfl⟩, fun _ => ⟨rfl, rfl, rfl, rfl⟩, ⟨rfl, rfl, by simp [readyState, Lcd.powerOn],
    by simp [readyState, Lcd.powerOn]⟩, fun _ => ⟨rfl, rfl⟩, fun _ => by decide⟩

/-- A state in the middle of an operation keeps the invariant. -/
theorem busyState_inv {i : Instr} {es : List SeqEntry} (k : Nat) (hi : isOperation i = true)
    (hk : k < (entriesOf false i).length) (hes : es = (entriesOf false i).drop k)
    (hd : Disciplined readyState.line es) : Inv { busyState es with oper := some i } :=
  ⟨.inr ⟨rfl, i, k, rfl, hi, hk, hes, .inr rfl⟩, fun _ => hd, readyState_inv.2.2.1, readyState_inv.2.2.2⟩

theorem witness_SetupLeavesIdleHandle : State.reset.busy = false ∧ State.reset.lcd.pending = none := by decide

/-- The first clause: a step that accepts a `SETUP`; the second: one that does not. -/
theorem witness_HandleWrittenBySetupOnly :
    (∃ s t, step s = .next t ∧ ∃ pins m u, fetch s = .run (.setup pins m) u) ∧ step readyState = .next readyState :=
  ⟨⟨{ State.reset with requests := [0x00001], payload := [10, 11, 12, 13, 14, 15] }, _, rfl,
    ⟨10, 11, 12, 13, 14, 15⟩, true, _, rfl⟩, rfl⟩

/-- The last step of `SETUP`, and a step of another operation. -/
theorem witness_ConfiguredSetBySetupOnly :
    (Inv { busyState [⟨.set .rw false, .configure⟩] with oper := some (.setup ⟨1, 2, 3, 4, 5, 6⟩ false) } ∧
      ∃ t, step { busyState [⟨.set .rw false, .configure⟩] with oper := some (.setup ⟨1, 2, 3, 4, 5, 6⟩ false) } = .next t ∧
        t.configured = true) ∧
      Inv readyState ∧ ∃ t, step readyState = .next t :=
  ⟨⟨busyState_inv 17 rfl (by decide) rfl ⟨rfl, rfl, rfl, rfl⟩, _, rfl, rfl⟩, readyState_inv, _, rfl⟩

theorem witness_SequencerEmitsOneEventPerStep :
    (∃ a, exec .pulseEnable readyState = .next a) ∧ (busyState [plain (.wait 1)]).busy = true ∧
      (busyState [plain (.wait 1)]).lcd.pending = none ∧ (busyState [plain (.wait 1)]).seq = [plain (.wait 1)] :=
  ⟨⟨_, rfl⟩, rfl, rfl, rfl⟩

theorem witness_AcceptanceChangesSequencerOnly :
    isOperation (.goto 5 1) = true ∧ isSetup (.goto 5 1) = false ∧ readyState.configured = true ∧
      readyState.busy = false ∧ readyState.line.en = false := by decide

/-- Both of its last clauses: an operation that is `SETUP`, and one that is not. -/
theorem witness_AcceptanceFrame :
    (∃ a, exec (.setup ⟨1, 2, 3, 4, 5, 6⟩ true) readyState = .next a) ∧ ∃ a, exec (.drawStr [1]) readyState = .next a :=
  ⟨⟨_, rfl⟩, _, rfl⟩

theorem witness_OperationRunsToCompletion : isOperation (.drawStr []) = true ∧ Ready mirroredState :=
  ⟨rfl, mirroredState_ready⟩

theorem witness_EventCountsAndDurations :
    isOperation (.goto 5 1) = true ∧ Instr.goto 5 1 ≠ .pulseEnable ∧ ∀ b, Instr.goto 5 1 ≠ .transmit b :=
  ⟨rfl, by decide, fun _ h => by cases h⟩

theorem witness_FramesOnTheLines : Ready mirroredState := mirroredState_ready
theorem witness_TransmitSerialisesByte : Ready readyState := readyState_ready
theorem witness_StagesDuringTransmit : Ready readyState ∧ 8 ≤ 8 ∧ 0 ≤ 8 ∧ 7 < 8 := ⟨readyState_ready, by decide⟩
theorem witness_PulseEnableStrobesOnce : Ready readyState := readyState_ready
theorem witness_LinesStableDuringPulse : Ready readyState ∧ 7 ≤ 7 := ⟨readyState_ready, by decide⟩
theorem witness_WriteCommandSendsByte : Ready readyState := readyState_ready
theorem witness_WriteDataSendsByte : Ready mirroredState := mirroredState_ready

/-- Both clauses: an operation that sends bytes through the bus, and `TRANSMIT`. -/
theorem witness_MirroringAppliedToEveryWrite :
    (isOperation .clearDisplay = true ∧ ∀ b, Instr.clearDisplay ≠ .transmit b) ∧ isOperation (.transmit 1) = true :=
  ⟨⟨rfl, fun _ h => by cases h⟩, rfl⟩

/-- A matched and an unmatched configuration. -/
theorem witness_MatchedConfigurationDeliversByte :
    (Ready readyState ∧ matched readyState = true) ∧
      Ready { readyState with wiring := .mirror } ∧ matched { readyState with wiring := .mirror } = false :=
  ⟨⟨readyState_ready, rfl⟩, readyState_ready, rfl⟩

theorem witness_SetDdramAddrSendsMaskedAddress : Ready readyState := readyState_ready
theorem witness_SetCgramAddrSendsMaskedAddress : Ready readyState := readyState_ready
theorem witness_GotoSendsCursorAddress : Ready mirroredState := mirroredState_ready

/-- Each clause at values that differ in ignored bits only. -/
theorem witness_IgnoredBitsHaveNoEffect :
    (0xA : BitVec 4) ∈ ([0x1, 0x3, 0x4, 0x5, 0x6, 0xA] : List (BitVec 4)) ∧
      (0x9 : BitVec 4) ∈ ([0x2, 0x8, 0x9] : List (BitVec 4)) ∧
      (0xFE : Byte).getLsbD 0 = (0x00 : Byte).getLsbD 0 ∧ 255 % 128 = 127 % 128 ∧ 64 % 64 = 0 % 64 ∧ 11 % 8 = 3 % 8 ∧
      Ready readyState := by
  refine ⟨by decide, by decide, by decide, by decide, by decide, by decide, readyState_ready⟩

theorem witness_InitializeDisplaySendsModes : Ready readyState := readyState_ready
theorem witness_ClearDisplaySendsClearThenHome : Ready readyState := readyState_ready
theorem witness_CreateCustomCharSendsGlyph : Ready readyState := readyState_ready
theorem witness_DrawStrSendsEachByte : ([] : List Byte).length < 2 ^ 16 ∧ Ready readyState :=
  ⟨by decide, readyState_ready⟩
theorem witness_EmptyDrawStrChangesNothing :
    readyState.configured = true ∧ readyState.busy = false ∧ readyState.seq = [] ∧ readyState.oper = none := by decide
theorem witness_OperationBeforeSetupRefused :
    isOperation (.writeData 0x41) = true ∧ isSetup (.writeData 0x41) = false ∧ State.reset.configured = false ∧
      State.reset.busy = false := by decide
theorem witness_ForcedRequestRefused :
    isOperation (.writeData 0x41) = true ∧ (busyState [plain (.wait 1)]).busy = true := by decide

/-- Both clauses. -/
theorem witness_StrobeWithEnableHighRefused :
    (isOperation (.drawStr [1]) = true ∧ isSetup (.drawStr [1]) = false ∧ (∀ b, Instr.drawStr [1] ≠ .transmit b) ∧
      Instr.drawStr [1] ≠ .drawStr [] ∧
      (∃ s : State, s.configured = true ∧ s.busy = false ∧ s.line.en = true)) ∧
      readyState.configured = true ∧ readyState.busy = false :=
  ⟨⟨rfl, rfl, (fun _ h => by cases h), by decide,
    { readyState with line := ⟨true, true, false, true, false, false⟩ }, rfl, rfl, rfl⟩, rfl, rfl⟩

theorem witness_RequestHeldWhileBusy : (busyState [plain (.wait 1)]).busy = true := by decide

/-- The two words where the clauses meet. -/
theorem witness_ReservedOperationRefused :
    (∀ w ∈ ([0xC0000, 0xBFFFF] : List ReqWord), ∃ s : State, s.lcd.pending = none ∧ s.busy = false ∧ s.requests = [w]) ∧
      0xC ≤ (opField 0xC0000).toNat ∧ ¬ 0xC ≤ (opField 0xBFFFF).toNat :=
  ⟨fun w _ => ⟨{ readyState with requests := [w] }, rfl, rfl, rfl⟩, by decide⟩

/-- Both cases of its third hypothesis. -/
theorem witness_IdleStepChangesNothing :
    readyState.lcd.pending = none ∧ readyState.busy = false ∧ readyState.requests = [] ∧
      decodeRequest 0xB0002 [0x48] = .payloadMissing 2 := by decide

/-- The reset state, with an operation other than `SETUP` (the first word and the last) and with a reserved number. -/
theorem witness_StepStopsOnlyByName :
    Inv State.reset ∧
      0 < (opField 0x10000).toNat ∧ (opField 0x10000).toNat ≤ 0xB ∧ (opField 0xBFFFF).toNat ≤ 0xB ∧
      0xC ≤ (opField 0xC0000).toNat :=
  ⟨⟨.inl ⟨rfl, rfl, rfl⟩, fun h => by simp [State.reset] at h,
    ⟨rfl, rfl, by simp [State.reset, Lcd.powerOn], by simp [State.reset, Lcd.powerOn]⟩,
    fun _ => ⟨rfl, rfl⟩, fun h => by simp [State.reset, Lcd.powerOn] at h⟩, by decide⟩

theorem witness_StepRunsDecodedRequest :
    readyState.lcd.pending = none ∧ readyState.busy = false ∧
      decodeRequest 0xB0002 [0x48, 0x69] = .ok (.drawStr [0x48, 0x69]) [] := by decide
theorem witness_StepRunsDecodedCommand :
    (pendingState ⟨Config.rsCmd, Config.rwWrite, 0x06⟩).lcd.pending = some ⟨Config.rsCmd, Config.rwWrite, 0x06⟩ ∧
      decodeCommand 0x06 = .ok (.lcdEntryModeSet true false) := by decide

/-- Both clauses, at the first and last words of the range. -/
theorem witness_TableWordIsFetchedNext :
    decodeTableWord 8 0x01 = some .lcdClearDisplay ∧ decodeTableWord 8 0xFF = some (.lcdSetDdramAddr 0x7F) ∧
      decodeTableWord 8 0x100 = none ∧ decodeTableWord 24 0x00000 = some (.setup ⟨0, 0, 0, 0, 0, 0⟩ false) ∧
      decodeTableWord 24 0xB0002 = some (.drawStr [0, 0]) ∧ decodeTableWord 24 0x100000 = none := by decide

theorem witness_DecodeOfEncode :
    Instr.wf (.goto 255 255) = true ∧ Instr.wf (.setup ⟨1, 2, 3, 4, 5, 6⟩ true) = true ∧ Instr.wf (.drawStr []) = true ∧
      Instr.wf (.lcdFunctionSet true true false) = true := by decide
theorem witness_EncodeOfDecode :
    decodeRequest 0x7FFFF [] = .ok (.goto 255 255) [] ∧ decodeCommand 0x38 = .ok (.lcdFunctionSet true true false) := by
  decide
/-- A state in the conventional order, and one in which the premise of U2 has failed. -/
theorem witness_AddressCommandsOfController :
    (readyState.lcd.initBegun = true ∧ readyState.lcd.order ≠ .broken) ∧
      ∃ s : State, s.lcd.initBegun = true ∧ s.lcd.order = .broken :=
  ⟨by decide, { readyState with lcd := { readyState.lcd with order := .broken } }, rfl, rfl⟩
theorem witness_ModeCommandsOfController : readyState.lcd.initBegun = true := rfl

/-- Both clauses. -/
theorem witness_ControllerUnknownBeforeInitialize :
    rawState.lcd.initBegun = false ∧ isOperation .lcdClearDisplay = false ∧
      ∃ s : State, s.lcd.initBegun = false ∧ s.lcd.pending = some ⟨true, false, 0x41⟩ :=
  ⟨rfl, rfl, { rawState with lcd := { rawState.lcd with pending := some ⟨true, false, 0x41⟩ } }, rfl, rfl⟩

/-- A data byte, a byte of no pattern and a read; and a state in which the premise of U2 has failed. -/
theorem witness_ControllerStepChangesControllerOnly :
    (pendingState ⟨true, false, 0x41⟩).lcd.pending = some ⟨true, false, 0x41⟩ ∧
      (pendingState ⟨false, false, 0x00⟩).lcd.pending = some ⟨false, false, 0x00⟩ ∧
      (pendingState ⟨false, true, 0x01⟩).lcd.pending = some ⟨false, true, 0x01⟩ ∧
      ∃ s : State, s.lcd.pending = some ⟨true, false, 0x41⟩ ∧ s.lcd.order = .broken :=
  ⟨rfl, rfl, rfl, { rawState with lcd := { rawState.lcd with pending := some ⟨true, false, 0x41⟩, order := .broken } },
    rfl, rfl⟩

/-- The ends of the two DDRAM rows, in 2-line mode and not. -/
theorem witness_WriteDataStoresInDdram :
    ∀ ac ∈ ([0x00, 0x27, 0x40, 0x67] : List (BitVec 7)), ∀ two : Bool, ∃ s : State,
      Ready s ∧ matched s = true ∧ (s.lcd.initBegun = true ∧ s.lcd.order ≠ .broken) ∧ s.lcd.sel = .ddram ∧ s.lcd.inc = true ∧ s.lcd.ac = ac ∧ s.lcd.twoLine = two ∧
        (ac.toNat ≤ 0x27 ∨ (0x40 ≤ ac.toNat ∧ ac.toNat ≤ 0x67)) := by
  intro ac hac two
  refine ⟨{ readyState with lcd := { readyState.lcd with ac := ac, twoLine := two } }, readyState_ready, rfl,
    ⟨rfl, fun h => by cases h⟩, rfl, rfl, rfl, rfl, ?_⟩
  revert ac
  decide

theorem witness_WriteDataStoresInCgram :
    ∃ s : State, Ready s ∧ matched s = true ∧ (s.lcd.initBegun = true ∧ s.lcd.order ≠ .broken) ∧ s.lcd.sel = .cgram ∧ s.lcd.inc = true ∧ s.lcd.ac = 0x3F :=
  ⟨{ readyState with lcd := { readyState.lcd with sel := .cgram, ac := 0x3F } }, readyState_ready, rfl, by decide, rfl, rfl, rfl⟩

/-- The first initialisation, and a second one. -/
theorem witness_InitializeDisplaySetsControllerModes :
    (Ready rawState ∧ matched rawState = true ∧ rawState.lcd.order = .clean) ∧
      Ready mirroredState ∧ matched mirroredState = true ∧ mirroredState.lcd.order ≠ .clean :=
  ⟨⟨readyState_ready, readyState_matched, rfl⟩, mirroredState_ready, mirroredState_matched, by decide⟩

/-- The first and the last slot; the row clause and the clause for other addresses both have addresses. -/
theorem witness_GlyphRowsLandAtSlot :
    Ready readyState ∧ matched readyState = true ∧ (readyState.lcd.initBegun = true ∧ readyState.lcd.order ≠ .broken) ∧
      readyState.lcd.inc = true ∧ 7 < 8 ∧ (0 < 7 % 8 ∨ 7 % 8 + 8 ≤ 0) ∧
      (15 < 7 % 8 ∨ 7 % 8 + 8 ≤ 15) := ⟨readyState_ready, readyState_matched, by decide, by decide⟩

theorem witness_GotoPointsController :
    Ready mirroredState ∧ matched mirroredState = true ∧ mirroredState.lcd.initBegun = true ∧
      mirroredState.lcd.order ≠ .broken := ⟨mirroredState_ready, mirroredState_matched, by decide⟩

theorem witness_StepKeepsInvariant : Inv readyState ∧ ∃ t, step readyState = .next t := ⟨readyState_inv, _, rfl⟩

/-- A state inside `PULSE_ENABLE` that keeps the invariant, with a `Set` event next. -/
theorem witness_EnableLowWhileShifting :
    ∃ s : State, Inv s ∧ runSteps 0 s = .next s ∧ s.busy = true ∧ (∀ i, s.oper = some i → isSetup i = false) ∧
      ∃ rest, s.seq = plain (.set .en false) :: rest := by
  refine ⟨busyState pulseSeq, busyState_inv (i := .pulseEnable) 0 rfl (by decide) rfl ?_, rfl, rfl, ?_, _, rfl⟩
  · exact ⟨trivial, trivial, trivial, trivial, trivial, trivial, rfl, rfl, rfl, rfl⟩
  · intro i hi
    cases hi
    rfl

theorem witness_IdleLevelsBetweenOperations :
    Inv readyState ∧ runSteps 0 readyState = .next readyState ∧ readyState.configured = true ∧ readyState.busy = false :=
  ⟨readyState_inv, rfl, rfl, rfl⟩

/-- A step without an event, one that accepts an operation, and one with an event. -/
theorem witness_TraceGrowsByOneEvent :
    step readyState = .next readyState ∧
      (∃ t, step { readyState with requests := [0x20000] } = .next t ∧ t.seq = pulseSeq) ∧
      ∃ t, step (busyState [plain (.wait 1)]) = .next t ∧ t.trace = [.wait 1] :=
  ⟨rfl, ⟨_, rfl, rfl⟩, _, rfl, rfl⟩

theorem witness_BlockIndependentOfReceivers :
    SameBlock readyState { readyState with stages := 0xFF, wiring := .mirror, lcd := { readyState.lcd with ac := 5 } } :=
  ⟨rfl, rfl, rfl, rfl, rfl, rfl, rfl, rfl, rfl, rfl, rfl, rfl, rfl, rfl⟩

/-- The first and the last role; a `Mux` and a `Mode` event last in the trace. -/
theorem witness_ViewsShowTheState :
    roles[0]? = some .srclk ∧ roles[5]? = some .rw ∧
      State.ports { readyState with trace := [.mux 3 .en] } = { State.ports readyState with mux := some (3, .en) } ∧
      State.ports { readyState with trace := [.mode 4] } = { State.ports readyState with mode := some 4 } := by decide

/-- A wait shorter than one period, and one of two and a half. -/
theorem witness_DelayLoadIsCeiling : 0 < 4000 ∧ delayLoad 4000 1 = 1 ∧ delayLoad 4000 10 = 3 := by decide

end Sys2Proof.Tests
end

/-! SUPPORT. Proofs of the statements about the state (10_state.md): the invariant every step keeps, acceptance, the run of
`SETUP`, the controller's step, the views. -/

namespace Sys2Proof.Machine

/-! ### The lists of events of the operations -/

/-- A property of entry lists that the building blocks have, and that joining keeps, holds of the list of every operation but
`SETUP`. -/
theorem entriesOf_induction {C : List SeqEntry → Prop} (nil : C []) (append : ∀ {es es'}, C es → C es' → C (es ++ es'))
    (transmit : ∀ b, C (transmitSeq b)) (pulse : C pulseSeq)
    (select : ∀ rs, C [plain (.set .rs rs), plain (.set .rw Config.rwWrite)])
    (settle : C settleSeq) (initSettle : C initSettleSeq) (m : Bool) {i : Instr} (hs : isSetup i = false) :
    C (entriesOf m i) := by
  have bus : ∀ rs b, C (busSeq rs b) := fun rs b => append (append (select rs) (transmit b)) pulse
  have data : ∀ text : List Byte, C (text.flatMap (dataSeq m)) := by
    intro text
    induction text with
    | nil => exact nil
    | cons b text ih => exact append (bus _ _) ih
  cases i with
  | setup pins mirrored => cases hs
  | transmit b => exact transmit b
  | pulseEnable => exact pulse
  | writeCommand b => exact bus _ _
  | writeData b => exact bus _ _
  | setDdramAddr addr => exact bus _ _
  | setCgramAddr addr => exact bus _ _
  | goto column row => exact append settle (bus _ _)
  | initializeDisplay => exact append (append (append initSettle (bus _ _)) (bus _ _)) (bus _ _)
  | clearDisplay => exact append (append settle (bus _ _)) (bus _ _)
  | createCustomChar slot glyph => exact append (bus _ _) (data _)
  | drawStr text => exact data text
  | _ => exact nil

/-! ### The discipline of the lines -/

/-- From the levels of R29 the entries keep the discipline, and what follows them starts at the levels of R29 again. -/
def KeepsRest (es : List SeqEntry) : Prop :=
  ∀ l rest, restLevels l → (∀ l', restLevels l' → Disciplined l' rest) → Disciplined l (es ++ rest)

theorem KeepsRest.disciplined {es : List SeqEntry} (h : KeepsRest es) {l : PerRole Bool} (hl : restLevels l) :
    Disciplined l es := by
  simpa using h l [] hl fun _ hl' => hl'

theorem keepsRest_nil : KeepsRest [] := fun l _ hl hrest => hrest l hl

theorem KeepsRest.append {es es' : List SeqEntry} (h : KeepsRest es) (h' : KeepsRest es') : KeepsRest (es ++ es') := by
  intro l rest hl hrest
  rw [List.append_assoc]
  exact h l _ hl fun l' hl' => h' l' rest hl' hrest

/-- The clear pulse of `TRANSMIT` (41_shift_register_transport.md R90). -/
theorem keepsRest_clear (b : Byte) :
    KeepsRest [⟨.set .srclr false, .stage b⟩, plain (.wait Config.tClrLowUs), plain (.set .srclr true)] := by
  rintro ⟨ck, cl, dt, en, rs, rw⟩ rest ⟨rfl, rfl, rfl, rfl⟩ hrest
  exact ⟨rfl, trivial, rfl, hrest _ ⟨rfl, rfl, rfl, rfl⟩⟩

/-- The data line is driven while the clock is low (30_encoding.md R59). -/
theorem keepsRest_bitSlot (b : Byte) (i : Nat) : KeepsRest (bitSlot b i) := by
  rintro ⟨ck, cl, dt, en, rs, rw⟩ rest ⟨rfl, rfl, rfl, rfl⟩ hrest
  exact ⟨rfl, ⟨rfl, rfl⟩, rfl, hrest _ ⟨rfl, rfl, rfl, rfl⟩⟩

theorem keepsRest_transmitSeq (b : Byte) : KeepsRest (transmitSeq b) := by
  refine (keepsRest_clear b).append ?_
  induction List.range Config.nBits with
  | nil => exact keepsRest_nil
  | cons i is ih => exact (keepsRest_bitSlot b i).append ih

theorem keepsRest_pulseSeq : KeepsRest pulseSeq := by
  rintro ⟨ck, cl, dt, en, rs, rw⟩ rest ⟨rfl, rfl, rfl, rfl⟩ hrest
  exact ⟨trivial, trivial, trivial, trivial, trivial, trivial, hrest _ ⟨rfl, rfl, rfl, rfl⟩⟩

theorem keepsRest_select (rs : Bool) : KeepsRest [plain (.set .rs rs), plain (.set .rw Config.rwWrite)] := by
  rintro ⟨ck, cl, dt, en, rs, rw⟩ rest ⟨rfl, rfl, rfl, rfl⟩ hrest
  exact ⟨rfl, rfl, hrest _ ⟨rfl, rfl, rfl, rfl⟩⟩

/-- A wait drives no line, whether or not it begins `INITIALIZE_DISPLAY`. -/
theorem keepsRest_settleSeq : KeepsRest settleSeq := fun l _ hl hrest => ⟨trivial, hrest l hl⟩

theorem keepsRest_initSettleSeq : KeepsRest initSettleSeq := fun l _ hl hrest => ⟨trivial, hrest l hl⟩

/-- Every operation but `SETUP` keeps the discipline and returns to the levels of R29. -/
theorem keepsRest_entriesOf (m : Bool) {i : Instr} (hs : isSetup i = false) : KeepsRest (entriesOf m i) :=
  entriesOf_induction keepsRest_nil .append keepsRest_transmitSeq keepsRest_pulseSeq keepsRest_select
    keepsRest_settleSeq keepsRest_initSettleSeq m hs

/-- `SETUP` reaches the levels of R29 from any levels, whatever its `Mode` events leave (40_pin_configuration.md R82). -/
theorem disciplined_setupSeq (l : PerRole Bool) (phys logi : PerRole PinId) : Disciplined l (setupSeq phys logi) :=
  ⟨trivial, trivial, trivial, trivial, trivial, trivial, fun _ _ _ _ _ _ => ⟨rfl, rfl, rfl, rfl⟩⟩

/-- Carrying out the first entry leaves the lines where the rest needs them. -/
theorem Disciplined.emit {s : State} {e : SeqEntry} {rest : List SeqEntry} (h : Disciplined s.line (e :: rest)) :
    Disciplined (emit e s).line rest := by
  obtain ⟨ev, eff⟩ := e
  cases eff with
  | modeOutput r => rw [emit_line_mode _ s r rfl]; exact h _
  | plain => rw [emit_line _ s (by simp)]; exact h.2
  | stage b => rw [emit_line _ s (by simp)]; exact h.2
  | initBegins => rw [emit_line _ s (by simp)]; exact h.2
  | idleLevel => rw [emit_line _ s (by simp)]; exact h
  | configure => rw [emit_line _ s (by simp)]; exact h

/-! ### What the sequencer's step leaves, in one form for every event -/

theorem advance_nil {s : State} (hq : s.seq = []) : advance s = finish s := by
  unfold advance
  rw [hq]

/-- The first entry is carried out with the rest in `SEQ`; with the last one the operation is complete (R20). -/
theorem advance_cons {s : State} {e : SeqEntry} {rest : List SeqEntry} (hb : s.busy = true) (hq : s.seq = e :: rest) :
    advance s = { emit e { s with seq := rest } with
      busy := !rest.isEmpty
      oper := if rest.isEmpty then none else s.oper } := by
  cases rest with
  | nil => simp only [advance, hq]; rfl
  | cons e' more =>
    have same : ∀ u : State, u.busy = true → u.oper = s.oper → u = { u with busy := true, oper := s.oper } := by
      rintro u hu ho
      rw [← hu, ← ho]
    simp only [advance, hq]
    exact same _ (by simpa using hb) (by simp)

/-- The step of the busy block (R20). -/
theorem step_busy {s : State} {e : SeqEntry} {rest : List SeqEntry} (hp : s.lcd.pending = none) (hb : s.busy = true)
    (hq : s.seq = e :: rest) :
    step s = .next { emit e { s with seq := rest } with
      busy := !rest.isEmpty
      oper := if rest.isEmpty then none else s.oper } := by
  rw [← advance_cons hb hq]
  simp [step, fetch, hp, hb]

/-- The idle block takes the request at the port. -/
theorem fetch_request {s : State} {w : ReqWord} {more : List ReqWord} {i : Instr} {rest : List Byte}
    (hp : s.lcd.pending = none) (hb : s.busy = false) (hr : s.requests = w :: more)
    (hd : decodeRequest w s.payload = .ok i rest) : fetch s = .run i { s with requests := more, payload := rest } := by
  simp [fetch, hp, hb, fetchRequest, hr, hd]

theorem exec_operation_lcd {i : Instr} {s a : State} (hi : isOperation i = true) (h : exec i s = .next a) :
    a.lcd = s.lcd := by
  obtain ⟨-, ⟨-, -, rfl⟩ | ⟨pins, m, -, rfl⟩⟩ := exec_operation_next hi h
  · rw [accept_eq]
  · rw [accept_eq]; rfl

/-! ### The invariant of `SEQ` and the operand latches -/

theorem seqInv_accept {i : Instr} {s : State} (hi : isOperation i = true) (hc : isSetup i = true ∨ s.configured = true) :
    SeqInv (accept i (entriesOf s.mirrored i) s) := by
  rw [accept_eq]
  cases hes : entriesOf s.mirrored i with
  | nil => exact .inl ⟨rfl, rfl, rfl⟩
  | cons e rest => exact .inr ⟨rfl, i, 0, rfl, hi, by simp [hes], hes.symm, hc⟩

/-- The index of the next event moves on by one, and past the end the block is idle. -/
theorem seqInv_advance {s : State} (h : SeqInv s) (hb : s.busy = true) : SeqInv (advance s) := by
  obtain ⟨hb', -⟩ | ⟨-, i, k, ho, hi, hk, hq, hc⟩ := h
  · rw [hb] at hb'; cases hb'
  rw [List.drop_eq_getElem_cons hk] at hq
  rw [advance_cons hb hq]
  by_cases hlast : k + 1 < (entriesOf s.mirrored i).length
  · have hne : (List.drop (k + 1) (entriesOf s.mirrored i)).isEmpty = false := by simp; omega
    refine .inr ⟨by rw [hne]; rfl, i, k + 1, by rw [hne]; exact ho, hi, ?_, ?_, hc.imp_right (emit_configured_mono _ _)⟩
    · simpa using hlast
    · simp
  · have hnil : List.drop (k + 1) (entriesOf s.mirrored i) = [] := List.drop_eq_nil_of_le (by omega)
    exact .inl ⟨by simp [hnil], by simp [hnil], by simp [hnil]⟩

theorem step_keeps_seqInv {s t : State} (h : SeqInv s) (hst : step s = .next t) : SeqInv t := by
  obtain ⟨tr, -, ht, -⟩ | ⟨-, hb, rfl⟩ | ⟨-, -, rfl⟩ | ⟨-, -, w, more, i, rest, -, hd, hx⟩ := step_next_cases hst
  · rw [ht]; exact h
  · exact seqInv_advance h hb
  · exact h
  · have hi := decodeRequest_operation hd
    obtain ⟨-, ⟨-, hc, rfl⟩ | ⟨pins, m, rfl, rfl⟩⟩ := exec_operation_next hi hx
    · exact seqInv_accept hi (.inr hc)
    · exact seqInv_accept hi (.inl rfl)

/-! ### The invariant of the lines -/

theorem lineInv_advance {s : State} (h : LineInv s) (hb : s.busy = true) : LineInv (advance s) := by
  intro _
  have hd := h (.inr hb)
  cases hq : s.seq with
  | nil => rw [advance_nil hq]; exact hd
  | cons e rest =>
    rw [hq] at hd
    rw [advance_cons hb hq]
    simpa using Disciplined.emit (s := { s with seq := rest }) hd

/-- An idle block that `SETUP` has configured holds the levels of R29. -/
theorem restLevels_of_idle {s : State} (hq : SeqInv s) (hl : LineInv s) (hc : s.configured = true)
    (hb : s.busy = false) : restLevels s.line ∧ s.seq = [] := by
  obtain ⟨-, -, hnil⟩ | ⟨hb', -⟩ := hq
  · have hd := hl (.inl hc)
    rw [hnil] at hd
    exact ⟨hd, hnil⟩
  · rw [hb] at hb'; cases hb'

theorem step_keeps_lineInv {s t : State} (hq : SeqInv s) (hl : LineInv s) (hst : step s = .next t) : LineInv t := by
  obtain ⟨tr, -, ht, -⟩ | ⟨-, hb, rfl⟩ | ⟨-, -, rfl⟩ | ⟨-, hb, w, more, i, rest, -, hd, hx⟩ := step_next_cases hst
  · rw [ht]; exact hl
  · exact lineInv_advance hl hb
  · exact hl
  · obtain ⟨-, ⟨hs, hc, rfl⟩ | ⟨pins, m, rfl, rfl⟩⟩ := exec_operation_next (decodeRequest_operation hd) hx <;>
      rw [accept_eq]
    · exact fun _ => (keepsRest_entriesOf _ hs).disciplined (restLevels_of_idle hq hl hc hb).1
    · exact fun _ => disciplined_setupSeq _ _ _

/-! ### The invariant of the memories -/

theorem step_keeps_memories {s t : State} (hr : RamInv s) (hk : KnownInv s) (hst : step s = .next t) :
    RamInv t ∧ KnownInv t := by
  obtain ⟨tr, hp, -, -⟩ | ⟨-, hb, rfl⟩ | ⟨-, -, rfl⟩ | ⟨-, -, w, more, i, rest, -, hd, hx⟩ := step_next_cases hst
  · obtain ⟨f, hf, hstep⟩ := step_transfer tr
    rw [hstep s hp] at hst
    cases hst
    exact controllerRuns_memories hf hr hk
  · cases hq : s.seq with
    | nil => rw [advance_nil hq]; exact ⟨hr, hk⟩
    | cons e rest => rw [advance_cons hb hq]; exact emit_memories e (s := { s with seq := rest }) hr hk
  · exact ⟨hr, hk⟩
  · unfold RamInv KnownInv
    rw [exec_operation_lcd (decodeRequest_operation hd) hx]
    exact ⟨hr, hk⟩

/-- Settles O54: each part of the invariant is kept by itself, the lines' with the help of `SEQ`'s. -/
theorem stepKeepsInvariant : Obligations.StepKeepsInvariant := by
  rintro s t ⟨hq, hl, hr, hk⟩ hst
  exact ⟨step_keeps_seqInv hq hst, step_keeps_lineInv hq hl hst, step_keeps_memories hr hk hst⟩

/-- Settles O56: the invariant holds after the run, and an idle block has no event left between it and the levels of R29. -/
theorem idleLevelsBetweenOperations : Obligations.IdleLevelsBetweenOperations := by
  intro n s t hs hrun hc hb
  obtain ⟨hq, hl, -⟩ := runSteps_keeps stepKeepsInvariant hs hrun
  obtain ⟨⟨hck, hclr, hen, hrw⟩, hnil⟩ := restLevels_of_idle hq hl hc hb
  exact ⟨hck, hclr, hen, hrw, hnil⟩

/-! ### Acceptance -/

/-- Settles O5: none of the three refusals of `issue` applies, so the operation is accepted. -/
theorem acceptanceChangesSequencerOnly : Obligations.AcceptanceChangesSequencerOnly := by
  intro i s hi hs hc hb he
  rw [exec_eq_issue s hi hs, issue_ready hc hb he, accept_eq]

/-- Settles O6: acceptance is `accept`, for `SETUP` after the handle is bound. -/
theorem acceptanceFrame : Obligations.AcceptanceFrame := by
  intro i s a hi h
  obtain ⟨-, ⟨hs, -, rfl⟩ | ⟨pins, m, rfl, rfl⟩⟩ := exec_operation_next hi h <;> rw [accept_eq]
  · refine ⟨rfl, rfl, rfl, rfl, rfl, rfl, rfl, rfl, rfl, rfl, fun _ => rfl, fun _ => rfl, fun _ => ⟨rfl, rfl, rfl⟩, ?_⟩
    rintro pins m rfl
    cases hs
  · refine ⟨rfl, rfl, rfl, rfl, rfl, rfl, rfl, rfl, rfl, rfl, fun _ => rfl, fun _ => rfl, nofun, ?_⟩
    rintro pins' m' ⟨⟩
    exact ⟨rfl, rfl, rfl⟩

/-- Settles O4: acceptance by `exec_operation_next`, a step of the busy block by `step_busy`. -/
theorem sequencerEmitsOneEventPerStep : Obligations.SequencerEmitsOneEventPerStep := by
  refine ⟨fun i s a hi h => ?_, fun s e rest hp hb hq => ⟨_, step_busy hp hb hq, ?_, ?_, rfl, ?_⟩⟩
  · obtain ⟨-, ⟨-, -, rfl⟩ | ⟨pins, m, rfl, rfl⟩⟩ := exec_operation_next hi h <;> rw [accept_eq] <;> exact ⟨rfl, rfl, rfl⟩
  · simp
  · simp
  · exact emit_line e { s with seq := rest }

/-- Settles O2: of the kinds of step only the acceptance of `SETUP` writes the handle. -/
theorem handleWrittenBySetupOnly : Obligations.HandleWrittenBySetupOnly := by
  intro s t hst
  obtain ⟨tr, -, ht, -⟩ | ⟨-, hb, rfl⟩ | ⟨-, -, rfl⟩ | ⟨hp, hb, w, more, i, rest, hr, hd, hx⟩ := step_next_cases hst
  · rw [ht]; exact .inr ⟨rfl, rfl, rfl⟩
  · right
    cases hq : s.seq with
    | nil => rw [advance_nil hq]; exact ⟨rfl, rfl, rfl⟩
    | cons e rest => rw [advance_cons hb hq]; simp
  · exact .inr ⟨rfl, rfl, rfl⟩
  · obtain ⟨-, ⟨-, -, rfl⟩ | ⟨pins, m, rfl, rfl⟩⟩ := exec_operation_next (decodeRequest_operation hd) hx <;>
      rw [accept_eq]
    · exact .inr ⟨rfl, rfl, rfl⟩
    · exact .inl ⟨pins, m, _, fetch_request hp hb hr hd, rfl, rfl, rfl⟩

/-! ### `CONFIGURED` -/

theorem eq_setup_of_isSetup {i : Instr} (hs : isSetup i = true) : ∃ pins m, i = .setup pins m := by
  cases i with
  | setup pins m => exact ⟨pins, m, rfl⟩
  | _ => cases hs

/-- No entry of the list sets `CONFIGURED`. -/
def NeverConfigures (es : List SeqEntry) : Prop := ∀ e ∈ es, e.effect ≠ .configure

theorem neverConfigures_entriesOf (m : Bool) {i : Instr} (hs : isSetup i = false) : NeverConfigures (entriesOf m i) := by
  refine entriesOf_induction nofun (fun h h' e he => ?_) (fun b e he => ?_) ?_ (fun rs => ?_) ?_ ?_ m hs
  · exact (List.mem_append.1 he).elim (h e) (h' e)
  · simp only [transmitSeq, bitSlot, plain, List.mem_append, List.mem_cons, List.not_mem_nil, or_false,
      List.mem_flatMap] at he
    obtain (rfl | rfl | rfl) | ⟨j, -, rfl | rfl | rfl⟩ := he <;> simp
  · simp [NeverConfigures, pulseSeq, plain]
  · simp [NeverConfigures, plain]
  · simp [NeverConfigures, settleSeq, plain]
  · simp [NeverConfigures, initSettleSeq]

/-- `SETUP` sets it with its last event only. -/
theorem neverConfigures_setup_init (phys logi : PerRole PinId) : NeverConfigures (setupSeq phys logi).dropLast := by
  simp [NeverConfigures, setupSeq, roles, plain]

theorem mem_dropLast_of_drop_eq {α : Type} {l rest : List α} {x : α} {k : Nat} (h : x :: rest = l.drop k)
    (hr : rest ≠ []) : x ∈ l.dropLast := by
  have hl : l = l.take k ++ x :: rest := by rw [h, List.take_append_drop]
  rw [hl, List.dropLast_append_of_ne_nil (List.cons_ne_nil _ _), List.dropLast_cons_of_ne_nil hr]
  simp

/-- An entry that sets `CONFIGURED` is the last one of `SETUP`. -/
theorem configure_is_last_of_setup {s : State} {e : SeqEntry} {rest : List SeqEntry} (h : SeqInv s)
    (hq : s.seq = e :: rest) (he : e.effect = .configure) :
    rest = [] ∧ ∃ pins m, s.oper = some (.setup pins m) := by
  obtain ⟨-, -, hnil⟩ | ⟨-, i, k, ho, -, -, hdrop, -⟩ := h
  · rw [hq] at hnil; cases hnil
  rw [hq] at hdrop
  cases hs : isSetup i with
  | false =>
    have hmem : e ∈ entriesOf s.mirrored i := List.mem_of_mem_drop (hdrop ▸ List.mem_cons_self)
    exact absurd he (neverConfigures_entriesOf _ hs e hmem)
  | true =>
    obtain ⟨pins, m, rfl⟩ := eq_setup_of_isSetup hs
    refine ⟨?_, pins, m, ho⟩
    by_contra hr
    exact neverConfigures_setup_init _ _ e (mem_dropLast_of_drop_eq hdrop hr) he

/-- Settles O3: only an entry with the effect `configure` writes it, and that is `SETUP`'s last. -/
theorem configuredSetBySetupOnly : Obligations.ConfiguredSetBySetupOnly := by
  rintro s t ⟨hinv, -⟩ hst
  obtain ⟨tr, -, ht, -⟩ | ⟨-, hb, rfl⟩ | ⟨-, -, rfl⟩ | ⟨-, -, w, more, i, rest, -, hd, hx⟩ := step_next_cases hst
  · rw [ht]; exact .inl rfl
  · cases hq : s.seq with
    | nil => rw [advance_nil hq]; exact .inl rfl
    | cons e rest =>
      rw [advance_cons hb hq]
      by_cases he : e.effect = .configure
      · obtain ⟨rfl, pins, m, ho⟩ := configure_is_last_of_setup hinv hq he
        exact .inr ⟨by simp [emit, he], hb, rfl, pins, m, e, ho, rfl⟩
      · exact .inl (emit_configured e { s with seq := rest } he)
  · exact .inl rfl
  · obtain ⟨-, ⟨-, -, rfl⟩ | ⟨pins, m, rfl, rfl⟩⟩ := exec_operation_next (decodeRequest_operation hd) hx <;>
      rw [accept_eq] <;> exact .inl rfl

/-! ### The run of `SETUP` -/

/-- From these levels the entries lead to the levels `l'`, whatever the `Mode` events leave (40_pin_configuration.md R82). -/
def LeadsTo (l : PerRole Bool) (es : List SeqEntry) (l' : PerRole Bool) : Prop :=
  match es with
  | [] => l = l'
  | e :: rest =>
    match e.effect with
    | .modeOutput r => ∀ v, LeadsTo ((applyEvent l e.event).set r v) rest l'
    | _ => LeadsTo (applyEvent l e.event) rest l'

theorem LeadsTo.emit {s : State} {e : SeqEntry} {rest : List SeqEntry} {l' : PerRole Bool}
    (h : LeadsTo s.line (e :: rest) l') : LeadsTo (emit e s).line rest l' := by
  obtain ⟨ev, eff⟩ := e
  cases eff with
  | modeOutput r => rw [emit_line_mode _ s r rfl]; exact h _
  | _ => rw [emit_line _ s (by simp)]; exact h

/-- The six idle levels of R81 drive every line, so they hold whatever levels went before. -/
theorem setupSeq_leadsTo (l : PerRole Bool) (phys logi : PerRole PinId) :
    LeadsTo l (setupSeq phys logi) ⟨true, true, false, false, false, false⟩ := fun _ _ _ _ _ _ => rfl

/-- The entries `SETUP` is made of: requests to the platform, `Mode` events and idle levels. -/
def setupEntry (e : SeqEntry) : Bool :=
  match e.effect with
  | .plain => e.event.muxRequest.isSome
  | .modeOutput _ => true
  | .idleLevel => true
  | .configure => true
  | .stage _ => false
  | .initBegins => false

theorem setupSeq_setupEntry (phys logi : PerRole PinId) : ∀ e ∈ setupSeq phys logi, setupEntry e = true := by
  simp [setupSeq, roles, plain, setupEntry, Event.muxRequest]

/-- What such entries leave: they emit their events and lead the lines where `LeadsTo` says, and no transfer is received. -/
structure SetupProgress (es : List SeqEntry) (s t : State) : Prop where
  trace : t.trace = s.trace ++ eventsOf es
  line : ∀ rest l', LeadsTo s.line (es ++ rest) l' → LeadsTo t.line rest l'
  configured : t.configured = (s.configured || es.any (fun e => decide (e.effect = .configure)))
  phys : t.phys = s.phys
  logi : t.logi = s.logi
  mirrored : t.mirrored = s.mirrored
  scratch : t.scratch = s.scratch
  requests : t.requests = s.requests
  payload : t.payload = s.payload
  wiring : t.wiring = s.wiring
  received : t.received = s.received

theorem SetupProgress.nil (s : State) : SetupProgress [] s s :=
  ⟨by simp [eventsOf], fun _ _ h => h, by simp, rfl, rfl, rfl, rfl, rfl, rfl, rfl, rfl⟩

theorem SetupProgress.trans {es es' : List SeqEntry} {s u t : State} (h : SetupProgress es s u)
    (h' : SetupProgress es' u t) : SetupProgress (es ++ es') s t where
  trace := by rw [h'.trace, h.trace, eventsOf_append, List.append_assoc]
  line rest l' hl := h'.line rest l' (h.line _ l' (by rwa [← List.append_assoc]))
  configured := by rw [h'.configured, h.configured, List.any_append, Bool.or_assoc]
  phys := h'.phys.trans h.phys
  logi := h'.logi.trans h.logi
  mirrored := h'.mirrored.trans h.mirrored
  scratch := h'.scratch.trans h.scratch
  requests := h'.requests.trans h.requests
  payload := h'.payload.trans h.payload
  wiring := h'.wiring.trans h.wiring
  received := h'.received.trans h.received

/-- While the lines stay as they are the controller receives nothing. -/
theorem receiversReact_sameLine {l : PerRole Bool} {s : State} (h : s.line = l) :
    (receiversReact l s).received = s.received ∧ (receiversReact l s).lcd = s.lcd ∧
      (receiversReact l s).scratch = s.scratch := by
  have hf : ¬ (l.en = true ∧ s.line.en = false) := by rw [h]; cases l.en <;> simp
  simp [receiversReact, hf]

/-- Carrying out such an entry neither stages a byte nor lets the controller take a transfer. -/
theorem emit_setupEntry {e : SeqEntry} (h : setupEntry e = true) (s : State) :
    (emit e s).scratch = s.scratch ∧ (emit e s).received = s.received ∧
      (s.lcd.pending = none → (emit e s).lcd.pending = none) := by
  obtain ⟨ev, eff⟩ := e
  cases eff with
  | plain =>
    cases ev with
    | mux p r =>
      obtain ⟨hr, hl, hs⟩ := receiversReact_sameLine (s := perform (.mux p r) s) (l := s.line) rfl
      simp [emit, hr, hl]
    | _ => simp [setupEntry, Event.muxRequest] at h
  | stage b => cases h
  | initBegins => cases h
  | modeOutput r => simp [emit]
  | idleLevel => simp [emit]
  | configure => simp [emit]

/-- One step of `SETUP`. -/
theorem step_setupEntry {s : State} {e : SeqEntry} {rest : List SeqEntry} (hp : s.lcd.pending = none)
    (hb : s.busy = true) (hq : s.seq = e :: rest) (h : setupEntry e = true) :
    ∃ u, step s = .next u ∧ SetupProgress [e] s u ∧ u.lcd.pending = none ∧ u.seq = rest ∧
      u.busy = !rest.isEmpty ∧ (rest = [] → u.oper = none) := by
  obtain ⟨hsc, hrc, hpd⟩ := emit_setupEntry h { s with seq := rest }
  refine ⟨_, step_busy hp hb hq, ⟨emit_trace _ _, fun rest' l' hl => ?_, ?_, emit_phys _ _, emit_logi _ _,
    emit_mirrored _ _, hsc, emit_requests _ _, emit_payload _ _, emit_wiring _ _, hrc⟩, hpd hp, emit_seq _ _, rfl, ?_⟩
  · exact LeadsTo.emit (s := { s with seq := rest }) hl
  · by_cases he : e.effect = .configure
    · simp [emit, he]
    · simp [he, emit_configured]
  · rintro rfl
    rfl

/-- The run of a list of such entries: one step each, and the operation is complete. -/
theorem run_setupEntries (es : List SeqEntry) {s : State} (hp : s.lcd.pending = none) (hq : s.seq = es)
    (hb : s.busy = !es.isEmpty) (ho : es = [] → s.oper = none) (h : ∀ e ∈ es, setupEntry e = true) :
    ∃ t, runSteps es.length s = .next t ∧ SetupProgress es s t ∧ t.busy = false ∧ t.seq = [] ∧ t.oper = none := by
  induction es generalizing s with
  | nil => exact ⟨s, rfl, .nil s, hb, hq, ho rfl⟩
  | cons e rest ih =>
    obtain ⟨he, hrest⟩ := List.forall_mem_cons.1 h
    obtain ⟨u, hstep, hprog, hpu, hqu, hbu, hou⟩ := step_setupEntry hp hb hq he
    obtain ⟨t, hrun, hprog', hend⟩ := ih hpu hqu hbu hou hrest
    exact ⟨t, (runSteps_succ hstep).trans hrun, hprog.trans hprog', hend⟩

/-- The events of `SETUP` (R80, R81): the `Mux` events, the `Mode` events, the idle levels. -/
theorem eventsOf_setupSeq (phys logi : PerRole PinId) :
    eventsOf (setupSeq phys logi) =
      [Event.mux phys.srclk .srclk, .mux phys.srclr .srclr, .mux phys.srdat .srdat, .mux phys.en .en, .mux phys.rs .rs,
        .mux phys.rw .rw, .mode logi.srclk, .mode logi.srclr, .mode logi.srdat, .mode logi.en, .mode logi.rs,
        .mode logi.rw] ++
      [Event.set .srclr true, .set .srclk true, .set .srdat false, .set .en false, .set .rs false, .set .rw false] := rfl

/-- Settles O1: `SETUP` is accepted by any idle block, and its 18 entries then run by `run_setupEntries`. -/
theorem setupLeavesIdleHandle : Obligations.SetupLeavesIdleHandle := by
  refine ⟨⟨rfl, rfl, rfl⟩, fun s pins m hb hp => ?_⟩
  have hx : exec (.setup pins m) s =
      .next (accept (.setup pins m) (setupSeq pins Config.logicalDefault) (bindHandle pins m s)) := by
    simp [exec, execSetup, hb]
  obtain ⟨t, hrun, hprog, hbt, hqt, hot⟩ := run_setupEntries (setupSeq pins Config.logicalDefault)
    (s := accept (.setup pins m) (setupSeq pins Config.logicalDefault) (bindHandle pins m s)) hp rfl rfl nofun
    (setupSeq_setupEntry _ _)
  have hline := hprog.line [] _ (by rw [List.append_nil]; exact setupSeq_leadsTo _ _ _)
  have hconf : t.configured = true := by rw [hprog.configured]; exact Bool.or_true _
  have htrace := hprog.trace
  rw [eventsOf_setupSeq] at htrace
  exact ⟨_, t, hx, hrun, hline, hprog.phys, hprog.logi, hprog.mirrored, hconf, hbt, hqt, hot, hprog.scratch,
    hprog.requests, hprog.payload, hprog.wiring, hprog.received, _, htrace, rfl, .refl _, rfl⟩

/-! ### The controller's step -/

theorem controllerRuns_initBegun {f : State → State} (hf : ControllerEffect f) (s : State) :
    (controllerRuns f s).lcd.initBegun = s.lcd.initBegun := by
  cases hb : s.lcd.initBegun with
  | true => rw [controllerRuns_after f hb]; simp [hf.initBegun, hb]
  | false => rw [controllerRuns_before f hb]; simp [hb]

/-- A transfer before `INITIALIZE_DISPLAY` makes the premise of U2 fail (log 36). -/
theorem controllerRuns_order {f : State → State} (hf : ControllerEffect f) (s : State) :
    (controllerRuns f s).lcd.order = if s.lcd.initBegun = true then s.lcd.order else .broken := by
  cases hb : s.lcd.initBegun with
  | true => rw [controllerRuns_after f hb]; simp [hf.order]
  | false => rw [controllerRuns_before f hb]; simp

/-- Once it has failed no byte of the memories is known. -/
theorem controllerRuns_broken (f : State → State) {s : State} (h : (controllerRuns f s).lcd.order = .broken) :
    (controllerRuns f s).lcd.ddram = [] ∧ (controllerRuns f s).lcd.cgram = [] := by
  cases hb : s.lcd.initBegun with
  | true =>
    rw [controllerRuns_after f hb] at h ⊢
    have ho : (f s).lcd.order = .broken := by simpa using h
    simp [Lcd.forget_broken ho]
  | false => rw [controllerRuns_before f hb]; exact ⟨rfl, rfl⟩

/-- Settles O47: a pending transfer is executed by `controllerRuns`, whose frame, latch and ghosts are the lemmas above. -/
theorem controllerStepChangesControllerOnly : Obligations.ControllerStepChangesControllerOnly := by
  intro s tr h
  obtain ⟨f, hf, hstep⟩ := step_transfer tr
  exact ⟨_, hstep s h, controllerRuns_pending hf rfl, controllerRuns_frame hf (clearPending s) (clearPending s) rfl rfl,
    controllerRuns_initBegun hf _, controllerRuns_order hf _, controllerRuns_broken f⟩

/-! ### Reset and views -/

/-- Settles O53: after reset the block is idle and not configured, and nothing is known of the memories. -/
theorem invariantHoldsAtReset : Obligations.InvariantHoldsAtReset := by
  refine ⟨.inl ⟨rfl, rfl, rfl⟩, ?_, ⟨rfl, rfl, nofun, nofun⟩, fun _ => ⟨rfl, rfl⟩, nofun⟩
  rintro (hc | hb)
  · cases hc
  · cases hb

/-- Bit 0 of CFG is `MIRRORED` (10_state.md R22). -/
theorem cfg_mirrored (s : State) : s.cfg.getLsbD 0 = s.mirrored := by
  unfold State.cfg
  rw [BitVec.getLsbD_append]
  simp

/-- The bytes of CFG from bit 8 on are the identifiers of the six roles: the fields below a byte are skipped one by one, and of the
rest it is the lowest (R22). -/
theorem cfg_bytes (s : State) {k : Nat} {r : Role} (h : roles[k]? = some r) :
    s.cfg.extractLsb' (8 + 8 * k) 8 = s.phys.get r ∧ s.cfg.extractLsb' (56 + 8 * k) 8 = s.logi.get r := by
  obtain ⟨hk, rfl⟩ := List.getElem?_eq_some_iff.1 h
  have hk : k < 6 := hk
  unfold State.cfg
  constructor
  · rw [BitVec.extractLsb'_append_eq_of_le (w := 1) (by omega), BitVec.extractLsb'_append_eq_of_le (w := 7) (by omega)]
    interval_cases k
    all_goals
      repeat rw [BitVec.extractLsb'_append_eq_of_le (w := 8) (by decide)]
      rw [BitVec.extractLsb'_append_eq_of_add_le (w := 8) (by decide)]
      exact BitVec.extractLsb'_eq_self
  · rw [BitVec.extractLsb'_append_eq_of_le (w := 1) (by omega), BitVec.extractLsb'_append_eq_of_le (w := 7) (by omega)]
    iterate 6 rw [BitVec.extractLsb'_append_eq_of_le (w := 8) (by omega)]
    obtain rfl | hk5 : k = 5 ∨ k < 5 := by omega
    · iterate 5 rw [BitVec.extractLsb'_append_eq_of_le (w := 8) (by decide)]
      exact BitVec.extractLsb'_eq_self
    · interval_cases k
      all_goals
        repeat rw [BitVec.extractLsb'_append_eq_of_le (w := 8) (by decide)]
        rw [BitVec.extractLsb'_append_eq_of_add_le (w := 8) (by decide)]
        exact BitVec.extractLsb'_eq_self

/-- Settles O59: the line ports and flags are fields of the state; the other views by their cases. -/
theorem viewsShowTheState : Obligations.ViewsShowTheState := by
  refine fun s => ⟨cfg_mirrored s, fun _ _ => cfg_bytes s, rfl, rfl, rfl, rfl, rfl, rfl, rfl, rfl, rfl, ?_, ?_, ?_⟩
  · simp only [State.ports, State.plReady]
    cases s.requests <;> simp
  · intro p r
    simp only [State.ports]
    cases s.trace.getLast? with
    | none => simp
    | some e => cases e <;> simp [Event.muxRequest]
  · intro g
    simp only [State.ports]
    cases s.trace.getLast? with
    | none => simp
    | some e => cases e <;> simp [Event.modeRequest]

end Sys2Proof.Machine

/-! SUPPORT. Proofs of the statements about the receivers and their memory (20_memory.md): the block does not depend on them, the
stages of the shift register, the byte delivered, the controller's commands and data bytes, the trace. -/

namespace Sys2Proof.Machine

/-! ### The block does not depend on the receivers

The parts a step is made of keep the agreement on the block: each field of a result is, by the lemmas of Laws/State.lean, a function of
fields on which the two states agree. -/

theorem SameBlock.perform {s s' : State} (e : Event) (h : SameBlock s s') : SameBlock (perform e s) (perform e s') := by
  obtain ⟨hline, h⟩ := h
  simpa [SameBlock, hline] using h

theorem SameBlock.stageByte {s s' : State} (b : Byte) (h : SameBlock s s') :
    SameBlock (stageByte b s) (stageByte b s') := by
  obtain ⟨hline, hphys, hlogi, -, h⟩ := h
  exact ⟨hline, hphys, hlogi, rfl, h⟩

/-- Whether the controller takes a transfer depends on the lines alone (20_memory.md R43). -/
theorem SameBlock.receiversReact {s s' : State} (l : PerRole Bool) (h : SameBlock s s') :
    SameBlock (receiversReact l s) (receiversReact l s') := by
  have hpend' : (Machine.receiversReact l s).lcd.pending.isSome = (Machine.receiversReact l s').lcd.pending.isSome := by
    obtain ⟨hline, -, -, -, -, -, -, -, -, -, -, -, -, hpend⟩ := h
    unfold Machine.receiversReact
    rw [hline]
    split
    · rfl
    · exact hpend
  simp_all [SameBlock]

theorem SameBlock.beginInit {s s' : State} (h : SameBlock s s') : SameBlock (beginInit s) (beginInit s') := by
  simpa [SameBlock] using h

theorem SameBlock.unspecifyReceivers {s s' : State} (h : SameBlock s s') :
    SameBlock (unspecifyReceivers s) (unspecifyReceivers s') := by
  simp_all [SameBlock]

/-- The free level is the same one, as equally many have been drawn (log 24). -/
theorem SameBlock.unspecifyLevel {s s' : State} (r : Role) (h : SameBlock s s') :
    SameBlock (unspecifyLevel r s) (unspecifyLevel r s') := by
  simp_all [SameBlock]

theorem SameBlock.setConfigured {s s' : State} (h : SameBlock s s') :
    SameBlock (setConfigured s) (setConfigured s') := by
  simp_all [SameBlock]

theorem SameBlock.emit {s s' : State} (e : SeqEntry) (h : SameBlock s s') : SameBlock (emit e s) (emit e s') := by
  have hline : s.line = s'.line := h.1
  obtain ⟨ev, eff⟩ := e
  cases eff with
  | plain => simp only [Machine.emit, hline]; exact (h.perform ev).receiversReact _
  | stage b => simp only [Machine.emit, hline]; exact ((h.stageByte b).perform ev).receiversReact _
  | initBegins => simp only [Machine.emit, hline]; exact ((h.perform ev).receiversReact _).beginInit
  | modeOutput r => exact ((h.perform ev).unspecifyLevel r).unspecifyReceivers
  | idleLevel => exact (h.perform ev).unspecifyReceivers
  | configure => exact (h.perform ev).unspecifyReceivers.setConfigured

theorem SameBlock.withSeq {s s' : State} (es : List SeqEntry) (h : SameBlock s s') :
    SameBlock { s with seq := es } { s' with seq := es } := by
  simp_all [SameBlock]

theorem SameBlock.finish {s s' : State} (h : SameBlock s s') : SameBlock (finish s) (finish s') := by
  simp_all [SameBlock]

theorem SameBlock.withPort {s s' : State} (rs : List ReqWord) (pl : List Byte) (h : SameBlock s s') :
    SameBlock { s with requests := rs, payload := pl } { s' with requests := rs, payload := pl } := by
  simp_all [SameBlock]

theorem SameBlock.bindHandle {s s' : State} (pins : PerRole PinId) (m : Bool) (h : SameBlock s s') :
    SameBlock (bindHandle pins m s) (bindHandle pins m s') := by
  simp_all [SameBlock]

theorem SameBlock.accept {s s' : State} (i : Instr) (es : List SeqEntry) (h : SameBlock s s') :
    SameBlock (accept i es s) (accept i es s') := by
  simp_all [SameBlock, accept_eq]

/-- Two states that agree on the block advance alike. -/
theorem SameBlock.advance {s s' : State} (h : SameBlock s s') : SameBlock (advance s) (advance s') := by
  obtain ⟨-, -, -, -, -, -, -, hseq, -⟩ := id h
  simp only [Machine.advance, hseq]
  split
  · exact h.finish
  · split
    · exact ((h.withSeq []).emit _).finish
    · exact (h.withSeq _).emit _

/-- The three conditions of a refusal are the block's, so both operations are refused alike or both accepted. -/
theorem SameBlock.exec {s s' : State} {i : Instr} (hi : isOperation i = true) (h : SameBlock s s') :
    SameBlockOutcome (exec i s) (exec i s') := by
  obtain ⟨hline, -, -, -, hmir, hconf, hbusy, -⟩ := id h
  cases hs : isSetup i with
  | true =>
    obtain ⟨pins, m, rfl⟩ := eq_setup_of_isSetup hs
    simp only [Machine.exec, execSetup, hbusy]
    split
    · rfl
    · exact (h.bindHandle pins m).accept _ _
  | false =>
    rw [exec_eq_issue s hi hs, exec_eq_issue s' hi hs, hmir]
    simp only [issue, hline, hconf, hbusy]
    repeat' split
    · rfl
    · rfl
    · rfl
    · exact h.accept _ _

/-- Two outcomes that agree on the block go on alike or are the same refusal, as there is no fault (60_exceptions.md R150). -/
theorem SameBlockOutcome.cases {o o' : Host.Outcome State Fault Refusal} (h : SameBlockOutcome o o') :
    (∃ t t', o = .next t ∧ o' = .next t' ∧ SameBlock t t') ∨ ∃ r, o = .refused r ∧ o' = .refused r := by
  cases o with
  | fault r => nomatch r
  | next t =>
    cases o' with
    | fault r => nomatch r
    | next t' => exact .inl ⟨t, t', rfl, rfl, h⟩
    | refused r => exact h.elim
  | refused r =>
    cases o' with
    | fault r => nomatch r
    | next t => exact h.elim
    | refused r' => exact .inr ⟨r, rfl, congrArg _ (show r = r' from h).symm⟩

/-- Agreement on the block is kept by every step: the controller's changes nothing of it, and the others look at it alone. -/
theorem SameBlock.step {s s' : State} (h : SameBlock s s') : SameBlockOutcome (step s) (step s') := by
  obtain ⟨hline, hphys, hlogi, hscratch, hmir, hconf, hbusy, hseq, hoper, hreq, hpay, htrace, hdraws, hpend⟩ := id h
  cases hp : s.lcd.pending with
  | some tr =>
    obtain ⟨tr', hp'⟩ := Option.isSome_iff_exists.1 (show s'.lcd.pending.isSome = true by rw [← hpend, hp]; rfl)
    obtain ⟨l, d, hs, hl⟩ := step_pending hp
    obtain ⟨l', d', hs', hl'⟩ := step_pending hp'
    rw [hs, hs']
    exact ⟨hline, hphys, hlogi, hscratch, hmir, hconf, hbusy, hseq, hoper, hreq, hpay, htrace, hdraws, by simp [hl, hl']⟩
  | none =>
    have hp' : s'.lcd.pending = none := by simpa [hp] using hpend
    simp only [Machine.step, fetch, hp, hp', hbusy]
    cases s'.busy with
    | true => exact h.advance
    | false =>
      simp only [Bool.false_eq_true, if_false, fetchRequest, hreq, hpay]
      cases s'.requests with
      | nil => exact h
      | cons w more =>
        cases hd : decodeRequest w s'.payload with
        | ok i rest => simp only [hd]; exact (h.withPort more rest).exec (decodeRequest_operation hd)
        | payloadMissing n => simp only [hd]; exact h
        | reservedOperation op => simp only [hd]; rfl

/-- Settles O58: the agreement is kept step by step, by `SameBlock.step`. -/
theorem blockIndependentOfReceivers : Obligations.BlockIndependentOfReceivers := by
  intro n
  induction n with
  | zero => exact fun s s' h => h
  | succ n ih =>
    intro s s' h
    obtain ⟨t, t', hs, hs', ht⟩ | ⟨r, hs, hs'⟩ := h.step.cases <;> simp only [runSteps, hs, hs']
    · exact ih t t' ht
    · rfl

/-! ### The stages of the shift register during `TRANSMIT` -/

/-- A shift moves every stage on by one and takes the bit into stage 0 (20_memory.md R40). -/
theorem getLsbD_shiftIn (x : Byte) (st : BitVec 8) (i : Nat) {k : Nat} (hk : k < 8) :
    (shiftIn x st i).getLsbD k = if k = 0 then x.getLsbD i else st.getLsbD (k - 1) := by
  cases k with
  | zero => simp [shiftIn]
  | succ k => simp [shiftIn, hk, BitVec.getLsbD_eq_getElem (show k < 8 by omega)]

/-- After `j` shifts into a cleared register stage `k` holds the bit shifted in `k + 1` shifts ago, if there was one (R41). -/
theorem getLsbD_shifted (x : Byte) (j : Nat) {k : Nat} (hk : k < 8) :
    (shifted x j).getLsbD k = (decide (k < j) && x.getLsbD (j - 1 - k)) := by
  induction j generalizing k with
  | zero => simp [shifted]
  | succ j ih =>
    have hsucc : shifted x (j + 1) = shiftIn x (shifted x j) j := by
      simp [shifted, List.range_succ]
    rw [hsucc, getLsbD_shiftIn x _ j hk]
    cases k with
    | zero => simp
    | succ k =>
      have hbit : j - 1 - k = j + 1 - 1 - (k + 1) := by omega
      simp [ih (show k < 8 by omega), hbit]

/-- The frame of `TRANSMIT(b)` up to the clear pulse and `j` bit slots. -/
def transmitPrefix (b : Byte) (j : Nat) : List SeqEntry :=
  [⟨.set .srclr false, .stage b⟩, plain (.wait Config.tClrLowUs), plain (.set .srclr true)] ++
    (List.range j).flatMap (bitSlot b)

theorem transmitPrefix_length (b : Byte) (j : Nat) : (transmitPrefix b j).length = 3 + 3 * j := by
  simp [transmitPrefix, bitSlot, List.length_flatMap]
  omega

theorem transmitSeq_split (b : Byte) {j : Nat} (hj : j < 8) :
    ∃ rest, transmitSeq b = transmitPrefix b j ++ plain (.set .srclk false) :: rest := by
  obtain ⟨n, hn⟩ : ∃ n, Config.nBits = j + (n + 1) := ⟨7 - j, by simp [Config.nBits]; omega⟩
  rw [transmitSeq, hn, List.range_add, List.flatMap_append, List.range_succ_eq_map]
  exact ⟨_, (List.append_assoc ..).symm⟩

theorem quietRun_transmitPrefix_stages (l : PerRole Bool) (st : BitVec 8) (sc b : Byte) (j : Nat) :
    (quietRun ⟨l, st, sc⟩ (transmitPrefix b j)).stages = shifted b j := by
  have hclear : quietRun ⟨l, st, sc⟩ (transmitPrefix b 0) = ⟨{ l with srclr := true }, 0, b⟩ := by
    obtain ⟨ck, cl, dt, en, rs, rw⟩ := l
    cases ck <;> rfl
  cases j with
  | zero => rw [hclear]; rfl
  | succ n =>
    have hsplit : transmitPrefix b (n + 1) = transmitPrefix b 0 ++ (List.range (n + 1)).flatMap (bitSlot b) := rfl
    rw [hsplit, quietRun_append, hclear, quietRun_bitSlots rfl]
    rfl

theorem allQuiet_of_append {l : PerRole Bool} {es es' : List SeqEntry} (h : allQuiet l (es ++ es') = true) :
    allQuiet l es = true := by
  induction es generalizing l with
  | nil => rfl
  | cons e es ih =>
    simp only [List.cons_append, allQuiet, Bool.and_eq_true] at h ⊢
    exact ⟨h.1, ih h.2⟩

/-- Settles O11: before the last slot the run is a quiet one, and the whole of `TRANSMIT` is `run_transmit`. -/
theorem stagesDuringTransmit : Obligations.StagesDuringTransmit := by
  intro s b j hr hj
  obtain hj | rfl : j < 8 ∨ j = 8 := by omega
  · obtain ⟨hc, hb, hp, -, -, he, -⟩ := hr
    obtain ⟨rest, hsplit⟩ := transmitSeq_split b hj
    have hquiet : allQuiet s.line (transmitPrefix b j) = true :=
      allQuiet_of_append (hsplit ▸ allQuiet_transmitSeq he b)
    have hrun := run_quiet (transmitPrefix b j) (s := accept (.transmit b) (transmitSeq b) s) hp rfl hsplit hquiet
    rw [transmitPrefix_length] at hrun
    refine ⟨_, _, issue_ready hc hb he, hrun, fun k hk => ?_⟩
    simp only [quietRun_transmitPrefix_stages]
    exact getLsbD_shifted b j hk
  · obtain ⟨a, ha, hrun⟩ := run_transmit b hr
    exact ⟨a, _, ha, hrun, fun k hk => getLsbD_shifted b 8 hk⟩

/-! ### The byte delivered -/

theorem mirror_mirror : ∀ b : Byte, mirror (mirror b) = b := by decide

/-- The mirroring before the shift register and the wiring after it cancel in a matched configuration (20_memory.md R42). -/
theorem wired_mirrorIf (s : State) (b : Byte) :
    wired s.wiring (mirrorIf s.mirrored b) = if matched s then b else mirror b := by
  unfold matched
  cases s.wiring <;> cases s.mirrored <;> simp [wired, mirrorIf, mirror_mirror]

/-- The transfer a bus write makes. -/
theorem sent_eq (s : State) (w : Bool × Byte) :
    sent s w = ⟨w.1, Config.rwWrite, if matched s then w.2 else mirror w.2⟩ := by
  rw [sent, wired_mirrorIf]

theorem run_writeCommand {s : State} (b : Byte) (h : Ready s) :
    ∃ a t, exec (.writeCommand b) s = .next a ∧ runSteps 36 a = .next t ∧
      t.lcd.pending = none ∧ busRun [] [(Config.rsCmd, b)] s t :=
  run_operation (writes := [(Config.rsCmd, b)]) false h rfl rfl
    (by simp [entriesOf, commandSeq, writesSeq, mirroredWrites])

theorem run_writeData {s : State} (b : Byte) (h : Ready s) :
    ∃ a t, exec (.writeData b) s = .next a ∧ runSteps 36 a = .next t ∧
      t.lcd.pending = none ∧ busRun [] [(Config.rsData, b)] s t :=
  run_operation (writes := [(Config.rsData, b)]) false h rfl rfl
    (by simp [entriesOf, dataSeq, writesSeq, mirroredWrites])

/-- Settles O21: each write makes the one transfer `sent`. -/
theorem matchedConfigurationDeliversByte : Obligations.MatchedConfigurationDeliversByte := by
  intro s b h
  obtain ⟨a, t, ha, hrun, -, -, -, hrec, -⟩ := run_writeCommand b h
  obtain ⟨a', t', ha', hrun', -, -, -, hrec', -⟩ := run_writeData b h
  simp only [List.map_cons, List.map_nil, sent_eq] at hrec hrec'
  exact ⟨⟨a, t, ha, hrun, hrec⟩, a', t', ha', hrun', hrec'⟩

/-! ### The commands of the controller -/

/-- Once `INITIALIZE_DISPLAY` has begun, an effect that rewrites the controller by itself leaves what it writes, but of the
memories only what is known (log 36). -/
theorem controllerRuns_ofLcd {f : State → State} {g : Lcd → Lcd} (hf : ∀ s, f s = { s with lcd := g s.lcd })
    (ho : ∀ l, (g l).order = l.order) {s : State} (h : s.lcd.initBegun = true) :
    controllerRuns f s = { s with lcd := { g s.lcd with
      ddram := knownMemory s (g s.lcd).ddram, cgram := knownMemory s (g s.lcd).cgram } } := by
  rw [controllerRuns_after f h, hf, Lcd.forget_eq (s := s) (ho _)]

theorem read_knownMemory_blankDdram (s : State) (x : Nat) :
    (knownMemory s blankDdram).read x =
      if s.lcd.order ≠ .broken ∧ (x ≤ 0x27 ∨ (0x40 ≤ x ∧ x ≤ 0x67)) then some 0x20 else none := by
  by_cases hb : s.lcd.order = .broken
  · rw [knownMemory_broken hb, if_neg (fun h => h.1 hb)]; rfl
  · rw [knownMemory_known hb, read_blankDdram]; simp only [hb, ne_eq, not_false_eq_true, true_and]

/-- Pointing the address counter into a RAM. -/
theorem controllerRuns_pointAt (sel : RamSelect) (ac : BitVec 7) {s : State} (h : s.lcd.initBegun = true) :
    controllerRuns (pointAt sel ac) s = { s with lcd := { s.lcd with
      ac := ac, sel := sel, ddram := knownMemory s s.lcd.ddram, cgram := knownMemory s s.lcd.cgram } } :=
  controllerRuns_ofLcd (g := fun l => { l with sel := sel, ac := ac }) (fun _ => rfl) (fun _ => rfl) h

/-- Clear display: the fill, and the address counter at the first cell. -/
theorem controllerRuns_clearDisplay {s : State} (h : s.lcd.initBegun = true) :
    controllerRuns (fun u => pointAt .ddram 0 (fillDdram u)) s = { s with lcd := { s.lcd with
      ac := 0, sel := .ddram, ddram := knownMemory s blankDdram, cgram := knownMemory s s.lcd.cgram } } :=
  controllerRuns_ofLcd (g := fun l => { l with sel := .ddram, ac := 0, ddram := blankDdram }) (fun _ => rfl)
    (fun _ => rfl) h

/-- Settles O44: return home and the address commands point the address counter, clear display also fills DDRAM. -/
theorem addressCommandsOfController : Obligations.AddressCommandsOfController := by
  intro s h
  exact ⟨⟨_, congrArg Host.Outcome.next (controllerRuns_clearDisplay h), rfl, read_knownMemory_blankDdram s⟩,
    congrArg Host.Outcome.next (controllerRuns_pointAt _ _ h),
    fun _ => congrArg Host.Outcome.next (controllerRuns_pointAt _ _ h),
    fun _ => congrArg Host.Outcome.next (controllerRuns_pointAt _ _ h)⟩

/-- Settles O45: each mode command rewrites its mode bits, by `controllerRuns_ofLcd`. -/
theorem modeCommandsOfController : Obligations.ModeCommandsOfController := by
  refine fun s h => ⟨fun i sh => congrArg Host.Outcome.next ?_, fun d c b => congrArg Host.Outcome.next ?_,
    fun l n f => congrArg Host.Outcome.next ?_⟩
  · exact controllerRuns_ofLcd (g := fun x => { x with inc := i, shift := sh }) (fun _ => rfl) (fun _ => rfl) h
  · exact controllerRuns_ofLcd (g := fun x => { x with displayOn := d, cursorOn := c, blinkOn := b }) (fun _ => rfl)
      (fun _ => rfl) h
  · exact controllerRuns_ofLcd (g := fun x => { x with bus8 := l, twoLine := n, font10 := f }) (fun _ => rfl)
      (fun _ => rfl) h

/-- Settles O39: a command transfer is a write with the command register selected, so its byte is decoded and run. -/
theorem stepRunsDecodedCommand : Obligations.StepRunsDecodedCommand := by
  intro s b i hp hd
  have hrs : Config.rsCmd ≠ Config.rsData := by decide
  simp only [step, fetch, hp, fetchTransfer, ne_eq, not_true_eq_false, if_false, hrs, hd]
  rfl

/-! ### Data bytes -/

/-- A data transfer the controller has taken is stored. -/
theorem step_storeData {s : State} {d : Byte} (hp : s.lcd.pending = some ⟨Config.rsData, Config.rwWrite, d⟩) :
    step s = .next (controllerRuns (storeData d) (clearPending s)) := by
  simp only [step, fetch, hp, fetchTransfer, ne_eq, not_true_eq_false, if_false, if_true]

/-- In a matched configuration `WRITE_DATA(b)` runs to completion and the controller has stored `b`. -/
theorem run_writeData_matched {s : State} (b : Byte) (h : Ready s) (hm : matched s = true)
    (hi : s.lcd.initBegun = true) :
    ∃ a t, exec (.writeData b) s = .next a ∧ runSteps 36 a = .next t ∧ t.lcd = (storeData b s).lcd.forget := by
  obtain ⟨a, t, ha, hrun, -, -, -, -, u, hu, hlcd, -⟩ := run_writeData b h
  refine ⟨a, t, ha, hrun, ?_⟩
  obtain ⟨-, -, hp, -⟩ := h
  have hclear : clearPending { s with lcd := { s.lcd with pending := some ⟨Config.rsData, Config.rwWrite, b⟩ } } = s := by
    simp only [clearPending, ← hp]
  rw [sent_eq, if_pos hm, step_storeData rfl, hclear, controllerRuns_after _ hi] at hu
  cases hu
  exact hlcd

/-- While the premise of U2 holds, storing forgets nothing. -/
theorem storeData_forget (b : Byte) {s : State} (h : s.lcd.order ≠ .broken) :
    (storeData b s).lcd.forget = (storeData b s).lcd :=
  Lcd.forget_known (by rwa [(storeData_effect b).order])

/-- A data byte with SEL DDRAM. -/
theorem storeData_lcd_ddram (b : Byte) {s : State} (h : s.lcd.sel = .ddram) :
    (storeData b s).lcd =
      { s.lcd with ddram := storeDdram s.lcd b, ac := advancedAddress s.lcd s.receiverDraws } := by
  simp only [storeData, h]

/-- A data byte with SEL CGRAM. -/
theorem storeData_lcd_cgram (b : Byte) {s : State} (h : s.lcd.sel = .cgram) :
    (storeData b s).lcd =
      { s.lcd with cgram := s.lcd.cgram.write (s.lcd.ac &&& 0x3F).toNat b
                   ac := advancedAddress s.lcd s.receiverDraws } := by
  simp only [storeData, h]

/-- The 6-bit address of CGRAM. -/
theorem toNat_and_cgramMask (ac : BitVec 7) : (ac &&& 0x3F).toNat = ac.toNat % 64 := by
  rw [BitVec.toNat_and]
  exact Nat.and_two_pow_sub_one_eq_mod ac.toNat 6

/-- Settles O48: the byte is stored by `storeData`, and while the premise of U2 holds nothing is forgotten. -/
theorem writeDataStoresInDdram : Obligations.WriteDataStoresInDdram := by
  intro s b h hm hi hsel hinc hcell
  obtain ⟨a, t, ha, hrun, hlcd⟩ := run_writeData_matched b h hm hi
  refine ⟨a, t, ha, hrun, fun hknown => ?_, ?_, ?_⟩
  · have hddram : storeDdram s.lcd b = s.lcd.ddram.write s.lcd.ac.toNat b := if_pos (by simpa [ddramCell] using hcell)
    rw [hlcd, storeData_forget b hknown, storeData_lcd_ddram b hsel, hddram]
    exact ⟨fun x => Memory.read_write _ _ _ _, rfl⟩
  · simp [hlcd, storeData_lcd_ddram b hsel, hsel]
  · simp [hlcd, storeData_lcd_ddram b hsel, advancedAddress, nextAddress, hinc, hsel]

/-- Settles O49: as for DDRAM, at the address mod 64. -/
theorem writeDataStoresInCgram : Obligations.WriteDataStoresInCgram := by
  intro s b h hm hi hsel hinc
  obtain ⟨a, t, ha, hrun, hlcd⟩ := run_writeData_matched b h hm hi
  refine ⟨a, t, ha, hrun, fun hknown => ?_, ?_, ?_⟩
  · rw [hlcd, storeData_forget b hknown, storeData_lcd_cgram b hsel, toNat_and_cgramMask]
    exact ⟨fun x => Memory.read_write _ _ _ _, rfl⟩
  · simp [hlcd, storeData_lcd_cgram b hsel, hsel]
  · have hac : t.lcd.ac = (s.lcd.ac + 1) &&& 0x3F := by
      simp [hlcd, storeData_lcd_cgram b hsel, advancedAddress, nextAddress, hinc, hsel]
    rw [hac, toNat_and_cgramMask, BitVec.toNat_add]
    simp

/-! ### The trace -/

/-- Settles O57: only the sequencer's step emits an event, and only acceptance loads `SEQ`. -/
theorem traceGrowsByOneEvent : Obligations.TraceGrowsByOneEvent := by
  intro s t hst
  obtain ⟨tr, -, ht, -⟩ | ⟨-, hb, rfl⟩ | ⟨-, -, rfl⟩ | ⟨hp, hb, w, more, i, rest, hr, hd, hx⟩ := step_next_cases hst
  · rw [ht]; exact .inl ⟨rfl, .inl rfl⟩
  · cases hq : s.seq with
    | nil => rw [advance_nil hq]; exact .inl ⟨rfl, .inl hq⟩
    | cons e rest =>
      rw [advance_cons hb hq]
      exact .inr ⟨e, rest, hb, rfl, emit_trace _ _, emit_seq _ _⟩
  · exact .inl ⟨rfl, .inl rfl⟩
  · have hi := decodeRequest_operation hd
    refine .inl ?_
    obtain ⟨-, ⟨-, -, rfl⟩ | ⟨pins, m, rfl, rfl⟩⟩ := exec_operation_next hi hx <;> rw [accept_eq] <;>
      exact ⟨rfl, .inr ⟨hb, _, _, hi, fetch_request hp hb hr hd, rfl⟩⟩

end Sys2Proof.Machine

/-! SUPPORT. Proofs of the statements about the encoding (30_encoding.md): what decoding reads from a word, that it inverts encoding,
what the idle block does with a request, and the frames of the line formats. -/

namespace Sys2Proof

/-! ### Decoding the request word of each operation (R53, R54) -/

section
variable (A B : Byte) (pl : List Byte)

/-- The six identifiers are read in role order, and of the word only bit 0 of `B`. -/
theorem decodeRequest_setup (pins : PerRole PinId) :
    decodeRequest (requestWord 0x0 A B) (pinBytes pins ++ pl) = .ok (.setup pins (B.getLsbD 0)) pl := by
  simp [decodeRequest, pinBytes, decodePins]

theorem decodeRequest_transmit : decodeRequest (requestWord 0x1 A B) pl = .ok (.transmit A) pl := by
  simp [decodeRequest]

theorem decodeRequest_pulseEnable : decodeRequest (requestWord 0x2 A B) pl = .ok .pulseEnable pl := by
  simp [decodeRequest]

theorem decodeRequest_writeCommand : decodeRequest (requestWord 0x3 A B) pl = .ok (.writeCommand A) pl := by
  simp [decodeRequest]

theorem decodeRequest_writeData : decodeRequest (requestWord 0x4 A B) pl = .ok (.writeData A) pl := by
  simp [decodeRequest]

theorem decodeRequest_setDdramAddr :
    decodeRequest (requestWord 0x5 A B) pl = .ok (.setDdramAddr A.toNat) pl := by
  simp [decodeRequest]

theorem decodeRequest_setCgramAddr :
    decodeRequest (requestWord 0x6 A B) pl = .ok (.setCgramAddr A.toNat) pl := by
  simp [decodeRequest]

theorem decodeRequest_goto : decodeRequest (requestWord 0x7 A B) pl = .ok (.goto A.toNat B.toNat) pl := by
  simp [decodeRequest]

theorem decodeRequest_initializeDisplay :
    decodeRequest (requestWord 0x8 A B) pl = .ok .initializeDisplay pl := by
  simp [decodeRequest]

theorem decodeRequest_clearDisplay : decodeRequest (requestWord 0x9 A B) pl = .ok .clearDisplay pl := by
  simp [decodeRequest]

theorem decodeRequest_createCustomChar (glyph : Glyph) :
    decodeRequest (requestWord 0xA A B) (glyphBytes glyph ++ pl) = .ok (.createCustomChar A.toNat glyph) pl := by
  simp [decodeRequest, glyphBytes, decodeGlyph]

/-- A text whose length fits its field is read whole. -/
theorem decodeRequest_drawStr {text : List Byte} (h : text.length < 2 ^ 16) :
    decodeRequest (textWord text.length) (text ++ pl) = .ok (.drawStr text) pl := by
  simp [decodeRequest, lengthField_textWord h, takeBytes_append]

end

/-- The request is reserved exactly when its operation number is none of the twelve (R57). -/
theorem decodeRequest_eq_reserved (w : ReqWord) (pl : List Byte) (op : BitVec 4) :
    decodeRequest w pl = .reservedOperation op ↔ op = opField w ∧ 0xC ≤ (opField w).toNat := by
  unfold decodeRequest
  split
  case h_1 hop | h_11 hop | h_12 hop => split <;> simp [hop]
  case h_13 =>
    have hop : 0xC ≤ (opField w).toNat := by simp only [imp_false] at *; omega
    simp [hop, eq_comm]
  all_goals
    rename_i hop
    simp [hop]

/-! ### Inverting the decoder (R54) -/

theorem eq_pinBytes_of_decodePins {pl rest : List Byte} {pins : PerRole PinId} (h : decodePins pl = some (pins, rest)) :
    pl = pinBytes pins ++ rest := by
  unfold decodePins at h
  split at h <;> cases h
  rfl

theorem eq_glyphBytes_of_decodeGlyph {pl rest : List Byte} {glyph : Glyph}
    (h : decodeGlyph pl = some (glyph, rest)) : pl = glyphBytes glyph ++ rest := by
  unfold decodeGlyph at h
  split at h <;> cases h
  rfl

theorem fitsByte_toNat (b : Byte) : fitsByte b.toNat = true := by
  simpa [fitsByte] using b.isLt

theorem toNat_ofNat_of_fitsByte {n : Nat} (h : fitsByte n = true) : (BitVec.ofNat 8 n).toNat = n :=
  Nat.mod_eq_of_lt (by simpa [fitsByte] using h)

theorem lengthField_lt (w : ReqWord) : lengthField w < 2 ^ 16 := (w.extractLsb' 0 16).isLt

/-- The request took the payload bytes its word asks for from the front, and looked at no more. -/
def TookPayload (w : ReqWord) (pl rest : List Byte) (i : Instr) : Prop :=
  ∃ taken, pl = taken ++ rest ∧ taken.length = payloadCount w ∧ ∀ more, decodeRequest w (taken ++ more) = .ok i more

/-- What decoding a request can give (R53, R54): the operands fit their fields, and the payload was taken as the word says. -/
theorem decodeRequest_ok {w : ReqWord} {pl rest : List Byte} {i : Instr} (h : decodeRequest w pl = .ok i rest) :
    i.wf = true ∧ TookPayload w pl rest i := by
  unfold decodeRequest at h
  split at h
  case h_1 hop =>
    split at h <;> cases h
    next pins hpins =>
    obtain rfl := eq_pinBytes_of_decodePins hpins
    exact ⟨rfl, _, rfl, by simp [payloadCount, hop, pinBytes],
      fun more => by simp [decodeRequest, hop, pinBytes, decodePins]⟩
  case h_11 hop =>
    split at h <;> cases h
    next glyph hglyph =>
    obtain rfl := eq_glyphBytes_of_decodeGlyph hglyph
    exact ⟨fitsByte_toNat _, _, rfl, by simp [payloadCount, hop, glyphBytes],
      fun more => by simp [decodeRequest, hop, glyphBytes, decodeGlyph]⟩
  case h_12 hop =>
    split at h <;> cases h
    next text htext =>
    obtain ⟨rfl, hlen⟩ := takeBytes_some htext
    exact ⟨by simpa [Instr.wf, fitsLength, hlen] using lengthField_lt w, text, rfl, by simp [payloadCount, hop, hlen],
      fun more => by simp [decodeRequest, hop, ← hlen, takeBytes_append]⟩
  case h_13 => cases h
  all_goals
    rename_i hop
    cases h
    exact ⟨by simp [Instr.wf, fitsByte_toNat], [], rfl, by simp [payloadCount, hop],
      fun more => by simp [decodeRequest, hop]⟩

/-! ### The command byte (R62 to R68) -/

/-- A command byte is the encoding of what it decodes to, pattern by pattern: the mask fixes the high bits, the fields are the low
ones. -/
theorem encode_of_decodeCommand {b : Byte} {i : Instr} (h : decodeCommand b = .ok i) :
    encode i = .command b ∧ Machine.isOperation i = false := by
  unfold decodeCommand at h
  split_ifs at h with _ _ _ _ _ hhome hclear <;> cases h
  -- the five patterns that have fields
  iterate 5 · revert b; decide
  · exact ⟨congrArg Code.command hhome.symm, rfl⟩
  · exact ⟨congrArg Code.command hclear.symm, rfl⟩

/-- Decoding inverts encoding on command bytes. -/
theorem decodeCommand_of_encode {i : Instr} {b : Byte} (h : encode i = .command b) : decodeCommand b = .ok i := by
  cases i <;> cases h
  case lcdClearDisplay => rfl
  case lcdReturnHome => rfl
  case lcdEntryModeSet i s => revert i s; decide
  case lcdDisplayControl d c b => revert d c b; decide
  case lcdFunctionSet l n f => revert l n f; decide
  case lcdSetCgramAddr addr => revert addr; decide
  case lcdSetDdramAddr addr => revert addr; decide

/-- Decoding inverts encoding on requests, and leaves the payload that follows. -/
theorem decodeRequest_of_encode {i : Instr} {w : ReqWord} {pl : List Byte} (hwf : i.wf = true)
    (h : encode i = .request w pl) (more : List Byte) : decodeRequest w (pl ++ more) = .ok i more := by
  cases i <;> cases h
  case setup pins mirrored => cases mirrored <;> exact decodeRequest_setup ..
  case transmit => exact decodeRequest_transmit ..
  case pulseEnable => exact decodeRequest_pulseEnable ..
  case writeCommand => exact decodeRequest_writeCommand ..
  case writeData => exact decodeRequest_writeData ..
  case setDdramAddr => rw [List.nil_append, decodeRequest_setDdramAddr, toNat_ofNat_of_fitsByte hwf]
  case setCgramAddr => rw [List.nil_append, decodeRequest_setCgramAddr, toNat_ofNat_of_fitsByte hwf]
  case goto column row =>
    obtain ⟨hcolumn, hrow⟩ : fitsByte column = true ∧ fitsByte row = true := by simpa [Instr.wf] using hwf
    rw [List.nil_append, decodeRequest_goto, toNat_ofNat_of_fitsByte hcolumn, toNat_ofNat_of_fitsByte hrow]
  case initializeDisplay => exact decodeRequest_initializeDisplay ..
  case clearDisplay => exact decodeRequest_clearDisplay ..
  case createCustomChar => rw [decodeRequest_createCustomChar, toNat_ofNat_of_fitsByte hwf]
  case drawStr => exact decodeRequest_drawStr more (by simpa [Instr.wf, fitsLength] using hwf)

/-- Settles O42: a request and a command byte each decode to what was encoded. -/
theorem decodeOfEncode : Obligations.DecodeOfEncode := by
  intro i more hwf
  split
  next w payload h => exact decodeRequest_of_encode hwf h more
  next b h => exact decodeCommand_of_encode h

/-- Settles O43: the two inversions. -/
theorem encodeOfDecode : Obligations.EncodeOfDecode := by
  refine ⟨fun w pl rest i h => ?_, fun b i h => encode_of_decodeCommand h⟩
  obtain ⟨hwf, taken, hpl, hlen, -⟩ := decodeRequest_ok h
  exact ⟨hwf, Machine.decodeRequest_operation h, taken, hpl, hlen⟩

namespace Machine

/-! ### What the idle block does with the request at the port -/

section
variable {s : State} {w : ReqWord} {more : List ReqWord}

theorem step_request {i : Instr} {rest : List Byte} (hp : s.lcd.pending = none) (hb : s.busy = false)
    (hr : s.requests = w :: more) (hd : decodeRequest w s.payload = .ok i rest) :
    step s = exec i { s with requests := more, payload := rest } := by
  rw [step, fetch_request hp hb hr hd]

theorem step_payloadMissing {n : Nat} (hp : s.lcd.pending = none) (hb : s.busy = false)
    (hr : s.requests = w :: more) (hd : decodeRequest w s.payload = .payloadMissing n) : step s = .next s := by
  simp [step, fetch, hp, hb, fetchRequest, hr, hd]

theorem step_reserved {op : BitVec 4} (hp : s.lcd.pending = none) (hb : s.busy = false)
    (hr : s.requests = w :: more) (hd : decodeRequest w s.payload = .reservedOperation op) :
    step s = .refused (.reservedOperation op) := by
  simp [step, fetch, hp, hb, fetchRequest, hr, hd]

end

/-- Why `issue` refuses. -/
theorem issue_refused {i : Instr} {es : List SeqEntry} {s : State} {r : Refusal} (h : issue i es s = .refused r) :
    r = .requestWhileBusy ∨ r = .notConfigured ∨ r = .enableHigh := by
  unfold issue at h
  split_ifs at h <;> cases h <;> simp

/-- Why an operation is refused (60_exceptions.md R156, R157, U10): never as reserved. -/
theorem exec_operation_refused {i : Instr} {s : State} {r : Refusal} (hi : isOperation i = true)
    (h : exec i s = .refused r) : r = .requestWhileBusy ∨ r = .notConfigured ∨ r = .enableHigh := by
  cases hs : isSetup i with
  | true =>
    obtain ⟨pins, m, rfl⟩ := eq_setup_of_isSetup hs
    simp only [exec, execSetup] at h
    split at h <;> cases h
    exact .inl rfl
  | false =>
    rw [exec_eq_issue s hi hs] at h
    exact issue_refused h

/-- Settles O38: `step_request`. -/
theorem stepRunsDecodedRequest : Obligations.StepRunsDecodedRequest :=
  fun _ _ _ _ _ hp hb hr hd => step_request hp hb hr hd

/-- Settles O35: a reserved word decodes as reserved; of the other words an operation is refused for other reasons, and a missing
payload is no refusal. -/
theorem reservedOperationRefused : Obligations.ReservedOperationRefused := by
  intro s w more hp hb hr
  constructor
  · intro h
    cases hd : decodeRequest w s.payload with
    | ok i rest =>
      rw [step_request hp hb hr hd] at h
      rcases exec_operation_refused (decodeRequest_operation hd) h with h | h | h <;> cases h
    | reservedOperation op => exact ((decodeRequest_eq_reserved w s.payload op).1 hd).2
    | payloadMissing n => rw [step_payloadMissing hp hb hr hd] at h; cases h
  · exact fun hop => step_reserved hp hb hr ((decodeRequest_eq_reserved w s.payload _).2 ⟨rfl, hop⟩)

/-! ### The rows of the opcode table -/

theorem decodeTableWord_command {w : Nat} {i : Instr} (h : decodeTableWord 8 w = some i) :
    decodeCommand (BitVec.ofNat 8 w) = .ok i := by
  simp only [decodeTableWord, le_refl, if_true, Option.ite_none_right_eq_some, Option.map_eq_some_iff, decode] at h
  obtain ⟨-, ⟨j, rest⟩, hd, rfl⟩ := h
  split at hd <;> cases hd
  assumption

/-- A request row decodes with the payload of zeros its word asks for, whatever follows it. -/
theorem decodeTableWord_request {w : Nat} {i : Instr} (h : decodeTableWord 24 w = some i) (more : List Byte) :
    decodeRequest (BitVec.ofNat 20 w) (List.replicate (payloadCount (BitVec.ofNat 20 w)) 0 ++ more) = .ok i more := by
  simp only [decodeTableWord, Nat.reduceLeDiff, if_false, Option.ite_none_right_eq_some, Option.map_eq_some_iff, decode] at h
  obtain ⟨-, ⟨j, rest⟩, hd, rfl⟩ := h
  split at hd <;> cases hd
  next hd =>
  obtain ⟨-, taken, hpl, hlen, hmore⟩ := decodeRequest_ok hd
  obtain rfl : rest = [] := by
    have hl := congrArg List.length hpl
    rw [List.length_replicate, List.length_append, hlen] at hl
    exact List.eq_nil_of_length_eq_zero (by omega)
  rw [hpl, List.append_nil]
  exact hmore more

/-- Settles O40: a command row is what the controller executes, a request row what the idle block takes. -/
theorem tableWordIsFetchedNext : Obligations.TableWordIsFetchedNext := by
  refine ⟨fun s w i h => ?_, fun s w i h => ?_⟩
  · exact stepRunsDecodedCommand (presentCommand _ s) _ i rfl (decodeTableWord_command h)
  · exact step_request (s := presentRequest _ s) rfl rfl rfl (decodeTableWord_request h s.payload)

/-- Settles O41: word by word. -/
theorem writtenOutWordsDecode : Obligations.WrittenOutWordsDecode := by
  refine ⟨?_, ?_, ?_, ?_, ?_, ?_, ?_, ?_, ?_, ?_, ?_, ?_, ?_⟩ <;> decide

/-! ### The line formats -/

/-- From a ready state an operation is accepted with its list of entries. -/
theorem exec_ready {i : Instr} {s : State} (h : Ready s) (hi : isOperation i = true) (hs : isSetup i = false) :
    exec i s = .next (accept i (entriesOf s.mirrored i) s) := by
  obtain ⟨hc, hb, -, -, -, he, -⟩ := h
  rw [exec_eq_issue s hi hs, issue_ready hc hb he]

/-- Settles O9: the entries of the four operations carry the events of R59 to R61. -/
theorem framesOnTheLines : Obligations.FramesOnTheLines :=
  fun _ b h => ⟨⟨_, exec_ready h rfl rfl, eventsOf_transmitSeq b⟩, ⟨_, exec_ready h rfl rfl, eventsOf_pulseSeq⟩,
    ⟨_, exec_ready h rfl rfl, eventsOf_busSeq _ _⟩, ⟨_, exec_ready h rfl rfl, eventsOf_busSeq _ _⟩⟩

/-- Settles O10: `run_transmit`, and the loaded register holds the byte. -/
theorem transmitSerialisesByte : Obligations.TransmitSerialisesByte := by
  refine ⟨decodeRequest_transmit, fun _ => rfl, fun s b h => ?_⟩
  obtain ⟨a, ha, hrun⟩ := run_transmit b h
  exact ⟨a, _, ha, hrun, ⟨rfl, rfl, rfl, rfl, rfl, rfl, rfl, rfl, rfl, rfl, rfl, rfl⟩, rfl, rfl, parallelOut_shifted b,
    rfl, rfl, rfl⟩

/-! ### Masked operands (R58) -/

theorem ddramCommand_congr {x y : Nat} (h : x % 128 = y % 128) : ddramCommand x = ddramCommand y := by
  have hmask (n : Nat) : n &&& Config.ddramMask = n % 128 := Nat.and_two_pow_sub_one_eq_mod n 7
  rw [ddramCommand, ddramCommand, hmask, hmask, h]

theorem cgramCommand_congr {x y : Nat} (h : x % 64 = y % 64) : cgramCommand x = cgramCommand y := by
  have hmask (n : Nat) : n &&& Config.cgramMask = n % 64 := Nat.and_two_pow_sub_one_eq_mod n 6
  rw [cgramCommand, cgramCommand, hmask, hmask, h]

theorem slotAddress_congr {x y : Nat} (h : x % 8 = y % 8) : slotAddress x = slotAddress y := by
  have hmask (n : Nat) : n &&& Config.slotMask = n % 8 := Nat.and_two_pow_sub_one_eq_mod n 3
  rw [slotAddress, slotAddress, hmask, hmask, h]

theorem entriesOf_setDdramAddr_congr (m : Bool) {x y : Nat} (h : x % 128 = y % 128) :
    entriesOf m (.setDdramAddr x) = entriesOf m (.setDdramAddr y) :=
  congrArg (commandSeq m) (ddramCommand_congr h)

theorem entriesOf_setCgramAddr_congr (m : Bool) {x y : Nat} (h : x % 64 = y % 64) :
    entriesOf m (.setCgramAddr x) = entriesOf m (.setCgramAddr y) :=
  congrArg (commandSeq m) (cgramCommand_congr h)

theorem entriesOf_createCustomChar_congr (m : Bool) {x y : Nat} (g : Glyph) (h : x % 8 = y % 8) :
    entriesOf m (.createCustomChar x g) = entriesOf m (.createCustomChar y g) := by
  simp only [entriesOf, createCustomCharSeq, slotAddress_congr h]

theorem run_setDdramAddr {s : State} (addr : Nat) (h : Ready s) :
    ∃ a t, exec (.setDdramAddr addr) s = .next a ∧ runSteps 36 a = .next t ∧
      t.lcd.pending = none ∧ busRun [] [(Config.rsCmd, ddramCommand addr)] s t :=
  run_operation (writes := [(Config.rsCmd, ddramCommand addr)]) false h rfl rfl
    (by simp [entriesOf, setDdramAddrSeq, commandSeq, writesSeq, mirroredWrites])

theorem run_setCgramAddr {s : State} (addr : Nat) (h : Ready s) :
    ∃ a t, exec (.setCgramAddr addr) s = .next a ∧ runSteps 36 a = .next t ∧
      t.lcd.pending = none ∧ busRun [] [(Config.rsCmd, cgramCommand addr)] s t :=
  run_operation (writes := [(Config.rsCmd, cgramCommand addr)]) false h rfl rfl
    (by simp [entriesOf, setCgramAddrSeq, commandSeq, writesSeq, mirroredWrites])

/-- Data bytes sent in order are a list of bus writes with the data register selected. -/
theorem flatMap_dataSeq (m : Bool) (bs : List Byte) :
    bs.flatMap (dataSeq m) = writesSeq (mirroredWrites m (bs.map (Config.rsData, ·))) := by
  rw [writesSeq, mirroredWrites, List.map_map, List.flatMap_map]
  rfl

/-- The bus writes of `CREATE_CUSTOM_CHAR` (45_display_operations.md R132). -/
def glyphWrites (slot : Nat) (glyph : Glyph) : List (Bool × Byte) :=
  (Config.rsCmd, cgramCommand (slotAddress slot)) :: (glyphBytes glyph).map (Config.rsData, ·)

theorem entriesOf_createCustomChar (m : Bool) (slot : Nat) (glyph : Glyph) :
    entriesOf m (.createCustomChar slot glyph) = writesSeq (mirroredWrites m (glyphWrites slot glyph)) := by
  rw [entriesOf, createCustomCharSeq, flatMap_dataSeq]
  rfl

theorem run_createCustomChar {s : State} (slot : Nat) (glyph : Glyph) (h : Ready s) :
    ∃ a t, exec (.createCustomChar slot glyph) s = .next a ∧ runSteps 324 a = .next t ∧
      t.lcd.pending = none ∧ busRun [] (glyphWrites slot glyph) s t := by
  have hlen : (glyphWrites slot glyph).length = 9 := rfl
  have hrun := run_operation (i := .createCustomChar slot glyph) (writes := glyphWrites slot glyph) false h rfl rfl
    (entriesOf_createCustomChar s.mirrored slot glyph)
  rw [hlen] at hrun
  exact hrun

/-- Of two operations with the same entries the second ends in the state in which the first completes: only the operand latches
differ meanwhile. -/
theorem runs_end_same {i j : Instr} {s : State} {n : Nat} {lead : List Event} {writes : List (Bool × Byte)} (h : Ready s)
    (hi : isOperation i = true) (hsi : isSetup i = false) (hj : isOperation j = true) (hsj : isSetup j = false)
    (hes : entriesOf s.mirrored i = entriesOf s.mirrored j)
    (hrun : ∃ a t, exec i s = .next a ∧ runSteps n a = .next t ∧ t.lcd.pending = none ∧ busRun lead writes s t) :
    ∃ a a' t, exec i s = .next a ∧ exec j s = .next a' ∧ runSteps n a = .next t ∧ runSteps n a' = .next t := by
  obtain ⟨a, t, ha, ht, -, ⟨-, hidle, -⟩, -⟩ := hrun
  refine ⟨a, _, t, ha, exec_ready h hj hsj, ht, ?_⟩
  rw [exec_ready h hi hsi, hes] at ha
  cases ha
  cases hq : entriesOf s.mirrored j with
  | nil => rw [hq] at ht; exact ht
  | cons e rest => rw [hq] at ht; exact runSteps_withOper (some j) rfl hidle ht

/-- Settles O25: decoding reads the stated fields only, the masked operands give the same entries, and the same entries end in the
same state. -/
theorem ignoredBitsHaveNoEffect : Obligations.IgnoredBitsHaveNoEffect := by
  refine ⟨?_, ?_, ?_, fun m _ _ h => entriesOf_setDdramAddr_congr m h, fun m _ _ h => entriesOf_setCgramAddr_congr m h,
    fun m _ _ g h => entriesOf_createCustomChar_congr m g h, fun s x y g hs => ⟨fun h => ?_, fun h => ?_, fun h => ?_⟩⟩
  · intro A B B' pl op hop
    simp only [List.mem_cons, List.not_mem_nil, or_false] at hop
    rcases hop with rfl | rfl | rfl | rfl | rfl | rfl <;> simp [decodeRequest]
  · intro A A' B B' pl op hop
    simp only [List.mem_cons, List.not_mem_nil, or_false] at hop
    rcases hop with rfl | rfl | rfl <;> simp [decodeRequest]
  · intro A A' B B' pl h
    have hbit : B[0] = B'[0] := by simpa using h
    simp [decodeRequest, hbit]
  · exact runs_end_same hs rfl rfl rfl rfl (entriesOf_setDdramAddr_congr _ h) (run_setDdramAddr x hs)
  · exact runs_end_same hs rfl rfl rfl rfl (entriesOf_setCgramAddr_congr _ h) (run_setCgramAddr x hs)
  · exact runs_end_same hs rfl rfl rfl rfl (entriesOf_createCustomChar_congr _ g h) (run_createCustomChar x g hs)

end Machine

end Sys2Proof

namespace Sys2Proof.Machine

/-! ### Edges on the lines (00_scope.md R9) -/

theorem eventsOf_bitSlots_cons (b : Byte) (i : Nat) (is : List Nat) :
    eventsOf ((i :: is).flatMap (bitSlot b)) =
      .set .srclk false :: .set .srdat (b.getLsbD i) :: .set .srclk true :: eventsOf (is.flatMap (bitSlot b)) := rfl

/-- Each bit slot lowers the idle clock and raises it again (41_shift_register_transport.md R92). -/
theorem risingEdges_srclk_bitSlots (b : Byte) (is : List Nat) :
    risingEdges .srclk true (eventsOf (is.flatMap (bitSlot b))) = is.length := by
  induction is with
  | nil => rfl
  | cons i is ih =>
    rw [eventsOf_bitSlots_cons]
    simp [risingEdges, ih, Nat.add_comm]

theorem risingEdges_srclr_bitSlots (b : Byte) (level : Bool) (is : List Nat) :
    risingEdges .srclr level (eventsOf (is.flatMap (bitSlot b))) = 0 := by
  induction is with
  | nil => rfl
  | cons i is ih =>
    rw [eventsOf_bitSlots_cons]
    simp [risingEdges, ih]

/-- The events of `TRANSMIT`: the clear pulse (R91), then the bit slots (R92). -/
theorem eventsOf_transmitSeq_bitSlots (b : Byte) :
    eventsOf (transmitSeq b) = .set .srclr false :: .wait Config.tClrLowUs :: .set .srclr true ::
      eventsOf ((List.range Config.nBits).flatMap (bitSlot b)) := rfl

/-- The clear pulse leaves the clock alone, so the rising edges are those of the bit slots (R93). -/
theorem risingEdges_srclk_transmitSeq (b : Byte) :
    risingEdges .srclk true (eventsOf (transmitSeq b)) = Config.nBits := by
  simp [eventsOf_transmitSeq_bitSlots, risingEdges, risingEdges_srclk_bitSlots]

/-- Up to the first data bit the clock has only been lowered (R93). -/
theorem risingEdges_srclk_take_transmitSeq (b : Byte) :
    risingEdges .srclk true ((eventsOf (transmitSeq b)).take 5) = 0 := by
  have hfirst : (eventsOf (transmitSeq b)).take 5 =
      [.set .srclr false, .wait Config.tClrLowUs, .set .srclr true, .set .srclk false, .set .srdat (b.getLsbD 0)] := rfl
  simp [hfirst, risingEdges]

theorem risingEdges_srclr_transmitSeq (b : Byte) : risingEdges .srclr true (eventsOf (transmitSeq b)) = 1 := by
  simp [eventsOf_transmitSeq_bitSlots, risingEdges, risingEdges_srclr_bitSlots]

/-- However the pulse finds `EN`, its own rising edge is the only one: its first event has lowered the line (R102). -/
theorem risingEdges_en_pulseSeq (level : Bool) : risingEdges .en level (eventsOf pulseSeq) = 1 := by
  simp [eventsOf_pulseSeq, enablePulse, risingEdges]

/-- `EN` falls once at the end of the pulse, and once more at its first event when it was high (R102). -/
theorem fallingEdges_en_pulseSeq (level : Bool) :
    fallingEdges .en level (eventsOf pulseSeq) = (if level = true then 1 else 0) + 1 := by
  simp [eventsOf_pulseSeq, enablePulse, fallingEdges]

/-- Settles O12: the edges of `TRANSMIT` are those of its clear pulse and its bit slots, the edges of `PULSE_ENABLE` those of the
enable pulse. -/
theorem edgesOnTheLines : Obligations.EdgesOnTheLines :=
  ⟨fun b _ => ⟨risingEdges_srclk_transmitSeq b, risingEdges_srclk_take_transmitSeq b, risingEdges_srclr_transmitSeq b⟩,
    fun _ => ⟨risingEdges_en_pulseSeq false, fallingEdges_en_pulseSeq false, fallingEdges_en_pulseSeq true⟩⟩

end Sys2Proof.Machine

namespace Sys2Proof.Machine

/-! ### The run of `PULSE_ENABLE` (42_control_line_sequencer.md R100, R105) -/

/-- Up to the event that lets `EN` fall at its end the pulse makes no falling edge on `EN`. -/
theorem allQuiet_take_pulseSeq {l : PerRole Bool} (he : l.en = false) {k : Nat} (hk : k ≤ 4) :
    allQuiet l (pulseSeq.take k) = true := by
  obtain ⟨ck, cl, dt, en, rs, rw⟩ := l
  cases he
  interval_cases k <;> rfl

/-- Up to there it drives `EN` only, from its third event on high, and shifts nothing. -/
theorem quietRun_take_pulseSeq {l : PerRole Bool} (hclr : l.srclr = true) (he : l.en = false) (st : BitVec 8) (sc : Byte)
    {k : Nat} (hk : k ≤ 4) :
    quietRun ⟨l, st, sc⟩ (pulseSeq.take k) = ⟨{ l with en := decide (3 ≤ k) }, st, sc⟩ := by
  obtain ⟨ck, cl, dt, en, rs, rw⟩ := l
  cases hclr
  cases he
  interval_cases k <;> cases ck <;> rfl

/-- The first events of the pulse, one step each. -/
theorem run_pulseHead {s : State} (h : Ready s) {k : Nat} (hk : k ≤ 4) :
    runSteps k (accept .pulseEnable pulseSeq s) = .next { s with
      seq := pulseSeq.drop k
      busy := true
      oper := some .pulseEnable
      trace := s.trace ++ eventsOf (pulseSeq.take k)
      line := { s.line with en := decide (3 ≤ k) } } := by
  obtain ⟨-, -, hp, -, hclr, he, -⟩ := h
  have hlt : k < pulseSeq.length := Nat.lt_of_le_of_lt hk (by decide)
  have hdrop : pulseSeq.drop k = pulseSeq[k] :: pulseSeq.drop (k + 1) := List.drop_eq_getElem_cons hlt
  have hrun := run_quiet (pulseSeq.take k) (s := accept .pulseEnable pulseSeq s) hp rfl
    (by rw [← hdrop, List.take_append_drop]; rfl) (allQuiet_take_pulseSeq he hk)
  have hquiet := quietRun_take_pulseSeq hclr he s.stages s.scratch hk
  rw [List.length_take_of_le hlt.le] at hrun
  simp only [accept_eq] at hrun ⊢
  rw [hrun, hquiet, hdrop]
  rfl

/-- The state of `PULSE_ENABLE` before the event that lets `EN` fall (`run_to_pulseHigh`). -/
def pulseHigh (s : State) : State :=
  { s with
    seq := [plain (.set .en false), plain (.wait Config.tEnPostUs)]
    busy := true
    oper := some .pulseEnable
    trace := s.trace ++ [.set .en false, .wait 1, .set .en true, .wait 80]
    line := { s.line with en := true } }

theorem run_to_pulseHigh {s : State} (h : Ready s) :
    runSteps 4 (accept .pulseEnable pulseSeq s) = .next (pulseHigh s) := run_pulseHead h (le_refl 4)

/-- `PULSE_ENABLE` runs to completion (R100): six events, and one step in which the controller executes the transfer it took. -/
theorem run_pulseEnable {s : State} (h : Ready s) :
    ∃ l d, (∀ u : State, u.lcd = { s.lcd with pending := some (presented s) } → u.receiverDraws = s.receiverDraws →
        step u = .next { u with lcd := l, receiverDraws := d }) ∧
      runSteps 7 (accept .pulseEnable pulseSeq s) = .next { s with
        seq := []
        busy := false
        oper := none
        trace := s.trace ++ enablePulse
        lcd := l
        receiverDraws := d
        received := s.received ++ [presented s] } := by
  have hhead := run_to_pulseHigh h
  obtain ⟨-, -, hp, -, hclr, he, -⟩ := h
  obtain ⟨l, d, -, hexec, htail⟩ := run_pulseTail (s := pulseHigh s) hp rfl rfl rfl hclr
  refine ⟨l, d, hexec, ((runSteps_add (n := 3) hhead).trans htail).trans ?_⟩
  have hline : { (pulseHigh s).line with en := false } = s.line := by rw [← he]; rfl
  have htrace : (pulseHigh s).trace ++ [.set .en false, .wait 100] = s.trace ++ enablePulse := List.append_assoc ..
  rw [hline, htrace]
  rfl

/-- Settles O13: the state `run_pulseEnable` ends in has what the statement asks for. -/
theorem pulseEnableStrobesOnce : Obligations.PulseEnableStrobesOnce := by
  refine ⟨decodeRequest_pulseEnable, rfl, fun s h => ?_⟩
  obtain ⟨l, d, hexec, hrun⟩ := run_pulseEnable h
  have ⟨_, _, _, _, _, hen, _⟩ := h
  exact ⟨_, _, exec_ready h rfl rfl, hrun, ⟨rfl, rfl, rfl, rfl, rfl, rfl, rfl, rfl, rfl, rfl, rfl, rfl⟩, rfl, hen, rfl, rfl,
    rfl, _, hexec _ rfl rfl, rfl, rfl⟩

/-- In the three steps from there to the end of the pulse only `EN` changes. -/
theorem linesStable_from_pulseHigh {s : State} (h : Ready s) {j : Nat} (hj : j ≤ 3) :
    ∃ u, runSteps j (pulseHigh s) = .next u ∧
      u.line = { s.line with en := u.line.en } ∧ u.stages = s.stages ∧ u.wiring = s.wiring := by
  obtain ⟨-, -, hp, -, hclr, -, -⟩ := h
  obtain ⟨l, d, -, hexec, hrun⟩ := run_pulseTail (s := pulseHigh s) hp rfl rfl rfl hclr
  have hfall := step_enableFalls (s := pulseHigh s) hp rfl rfl rfl hclr
  obtain rfl | rfl | rfl | rfl : j = 0 ∨ j = 1 ∨ j = 2 ∨ j = 3 := by omega
  · exact ⟨_, rfl, rfl, rfl, rfl⟩
  · exact ⟨_, runSteps_succ hfall, rfl, rfl, rfl⟩
  · exact ⟨_, (runSteps_succ hfall).trans (runSteps_succ (hexec _ rfl rfl)), rfl, rfl, rfl⟩
  · exact ⟨_, hrun, rfl, rfl, rfl⟩

/-- Settles O14: up to `pulseHigh` by `run_pulseHead`, from there by `linesStable_from_pulseHigh`. -/
theorem linesStableDuringPulse : Obligations.LinesStableDuringPulse := by
  intro s k h hk
  obtain hhead | htail := le_total k 4
  · exact ⟨_, _, exec_ready h rfl rfl, run_pulseHead h hhead, rfl, rfl, rfl⟩
  · obtain ⟨j, rfl⟩ := Nat.exists_eq_add_of_le htail
    obtain ⟨u, hrun, hstable⟩ := linesStable_from_pulseHigh h (j := j) (by omega)
    exact ⟨_, u, exec_ready h rfl rfl, (runSteps_add (run_to_pulseHigh h)).trans hrun, hstable⟩

/-! ### Operations that strobe `EN` (42_control_line_sequencer.md R102, 93_implementation_defined.md U10) -/

theorem issue_enableHigh {i : Instr} {es : List SeqEntry} {s : State} (hc : s.configured = true) (hb : s.busy = false)
    (he : s.line.en = true) (hes : es.any SeqEntry.strobes = true) : issue i es s = .refused .enableHigh := by
  simp [issue, hc, hb, he, hes]

/-- A list that leaves `EN` alone is accepted at either level of it. -/
theorem issue_noStrobe {i : Instr} {es : List SeqEntry} {s : State} (hc : s.configured = true) (hb : s.busy = false)
    (hes : es.any SeqEntry.strobes = false) : issue i es s = .next (accept i es s) := by
  simp [issue, hc, hb, hes]

theorem transmitSeq_noStrobe (b : Byte) : (transmitSeq b).any SeqEntry.strobes = false := rfl

theorem pulseSeq_strobes : pulseSeq.any SeqEntry.strobes = true := rfl

section
variable {es es' : List SeqEntry}

theorem strobes_append_left (h : es.any SeqEntry.strobes = true) : (es ++ es').any SeqEntry.strobes = true := by
  rw [List.any_append, h, Bool.true_or]

theorem strobes_append_right (h : es'.any SeqEntry.strobes = true) : (es ++ es').any SeqEntry.strobes = true := by
  rw [List.any_append, h, Bool.or_true]

end

/-- A bus transfer ends with the enable pulse, so it strobes `EN`. -/
theorem busSeq_strobes (rs : Bool) (b : Byte) : (busSeq rs b).any SeqEntry.strobes = true :=
  strobes_append_right pulseSeq_strobes

/-- Every operation but `SETUP`, `TRANSMIT` and the empty `DRAW_STR` makes a bus transfer or is the enable pulse itself. -/
theorem entriesOf_strobes (m : Bool) {i : Instr} (hi : isOperation i = true) (hs : isSetup i = false)
    (ht : ∀ b, i ≠ .transmit b) (hd : i ≠ .drawStr []) : (entriesOf m i).any SeqEntry.strobes = true := by
  cases i with
  | setup pins mirrored => cases hs
  | transmit b => exact absurd rfl (ht b)
  | pulseEnable => exact pulseSeq_strobes
  | writeCommand b => exact busSeq_strobes _ _
  | writeData b => exact busSeq_strobes _ _
  | setDdramAddr addr => exact busSeq_strobes _ _
  | setCgramAddr addr => exact busSeq_strobes _ _
  | goto column row => exact strobes_append_right (busSeq_strobes _ _)
  | initializeDisplay => exact strobes_append_right (busSeq_strobes _ _)
  | clearDisplay => exact strobes_append_right (busSeq_strobes _ _)
  | createCustomChar slot glyph => exact strobes_append_left (busSeq_strobes _ _)
  | drawStr text =>
    cases text with
    | nil => exact absurd rfl hd
    | cons b text => exact strobes_append_left (busSeq_strobes _ _)
  | _ => cases hi

/-- Settles O33: `issue` looks at whether the list of entries strobes `EN`. -/
theorem strobeWithEnableHighRefused : Obligations.StrobeWithEnableHighRefused := by
  refine ⟨fun i s hi hs ht hd hc hb he => ?_, fun b s hc hb => ⟨_, issue_noStrobe hc hb (transmitSeq_noStrobe b)⟩⟩
  rw [exec_eq_issue s hi hs]
  exact issue_enableHigh hc hb he (entriesOf_strobes _ hi hs ht hd)

end Sys2Proof.Machine

/-! SUPPORT. Proofs of the statements about command and data writes (43_command_data_dispatch.md): the mirror transform bit by bit,
the bytes an operation sends before and after mirroring, the runs of `WRITE_COMMAND` and `WRITE_DATA`. -/

namespace Sys2Proof.Machine

/-! ### The mirror transform as a permutation of bit positions (R112, R114) -/

/-- The position whose bit the transform puts at position `i` (R112). -/
def mirrorPos (i : Nat) : Nat :=
  match i with
  | 0 => 7
  | 1 => 5
  | 2 => 4
  | 3 => 6
  | 4 => 2
  | 5 => 1
  | 6 => 3
  | 7 => 0
  | i => i

theorem getLsbD_mirror (b : Byte) {i : Nat} (hi : i < 8) : (mirror b).getLsbD i = b.getLsbD (mirrorPos i) := by
  interval_cases i <;> simp [mirror, mirrorPos]

/-- The positions read are the eight positions, in another order. -/
theorem map_mirrorPos_perm : ((List.range 8).map mirrorPos).Perm (List.range 8) := by decide

/-- A permutation of the positions keeps how many of them hold a set bit (R114 (b)). -/
theorem countP_getLsbD_mirror (b : Byte) :
    (List.range 8).countP (mirror b).getLsbD = (List.range 8).countP b.getLsbD :=
  calc (List.range 8).countP (mirror b).getLsbD
      = (List.range 8).countP (b.getLsbD ∘ mirrorPos) :=
        List.countP_congr fun i hi => by rw [getLsbD_mirror b (List.mem_range.mp hi), Function.comp_apply]
    _ = ((List.range 8).map mirrorPos).countP b.getLsbD := List.countP_map.symm
    _ = (List.range 8).countP b.getLsbD := map_mirrorPos_perm.countP_eq _

/-- Settles O18: each equation is `getLsbD_mirror` at its position; the formula is the model's own. -/
theorem mirrorSwapsPairs : Obligations.MirrorSwapsPairs := fun b =>
  ⟨getLsbD_mirror b (i := 7) (by decide), getLsbD_mirror b (i := 0) (by decide), getLsbD_mirror b (i := 5) (by decide),
    getLsbD_mirror b (i := 1) (by decide), getLsbD_mirror b (i := 4) (by decide), getLsbD_mirror b (i := 2) (by decide),
    getLsbD_mirror b (i := 6) (by decide), getLsbD_mirror b (i := 3) (by decide), rfl⟩

/-- Settles O19: the involution is `mirror_mirror`, the number of set bits `countP_getLsbD_mirror`; the fixed points are found among
the 256 bytes. -/
theorem mirrorIsInvolution : Obligations.MirrorIsInvolution := by
  refine ⟨mirror_mirror, fun b => ?_, by decide, by decide⟩
  rw [← List.countP_eq_length_filter, ← List.countP_eq_length_filter, countP_getLsbD_mirror]

/-! ### The bytes an operation sends (R113) -/

@[simp] theorem mirrorIf_true (b : Byte) : mirrorIf true b = mirror b := rfl

@[simp] theorem mirrorIf_false (b : Byte) : mirrorIf false b = b := rfl

theorem stagedBytes_append (es es' : List SeqEntry) : stagedBytes (es ++ es') = stagedBytes es ++ stagedBytes es' :=
  List.filterMap_append

theorem stagedBytes_commandSeq (m : Bool) (b : Byte) : stagedBytes (commandSeq m b) = [mirrorIf m b] := rfl

theorem stagedBytes_dataSeq (m : Bool) (b : Byte) : stagedBytes (dataSeq m b) = [mirrorIf m b] := rfl

theorem stagedBytes_flatMap_dataSeq (m : Bool) (bs : List Byte) :
    stagedBytes (bs.flatMap (dataSeq m)) = bs.map (mirrorIf m) := by
  induction bs with
  | nil => rfl
  | cons b bs ih => rw [List.flatMap_cons, stagedBytes_append, stagedBytes_dataSeq, ih, List.map_cons, List.singleton_append]

/-- The command and data bytes of an operation's bus writes, in order, all address arithmetic done and nothing mirrored. -/
def bytesWritten (i : Instr) : List Byte :=
  match i with
  | .writeCommand b => [b]
  | .writeData b => [b]
  | .setDdramAddr addr => [ddramCommand addr]
  | .setCgramAddr addr => [cgramCommand addr]
  | .goto column row => [ddramCommand (gotoAddress column row)]
  | .initializeDisplay => [Config.cmdEntryMode, Config.cmdDisplayCtrl, Config.cmdFunctionSet]
  | .clearDisplay => [Config.cmdClear, Config.cmdHome]
  | .createCustomChar slot glyph => cgramCommand (slotAddress slot) :: glyphBytes glyph
  | .drawStr text => text
  | _ => []

/-- Mirroring comes last: what any operation but `TRANSMIT` hands to `TRANSMIT` is `m` of bytes that `MIRRORED` has no part in. -/
theorem stagedBytes_entriesOf (m : Bool) {i : Instr} (ht : ∀ b, i ≠ .transmit b) :
    stagedBytes (entriesOf m i) = (bytesWritten i).map (mirrorIf m) := by
  cases i with
  | transmit b => exact absurd rfl (ht b)
  | createCustomChar slot glyph =>
    rw [entriesOf, createCustomCharSeq, setCgramAddrSeq, stagedBytes_append, stagedBytes_commandSeq,
      stagedBytes_flatMap_dataSeq]
    rfl
  | drawStr text => exact stagedBytes_flatMap_dataSeq m text
  | _ => rfl

theorem stagedBytes_transmit (m : Bool) (b : Byte) : stagedBytes (entriesOf m (.transmit b)) = [b] := rfl

/-- Settles O20: by `stagedBytes_entriesOf` the two lists are the same bytes, mirrored and as they are. -/
theorem mirroringAppliedToEveryWrite : Obligations.MirroringAppliedToEveryWrite := by
  refine ⟨fun b => ⟨mirrorIf_true b, mirrorIf_false b⟩, fun i _ => ⟨fun ht => ?_, ?_⟩⟩
  · simp [stagedBytes_entriesOf _ ht]
  · rintro b rfl
    exact ⟨stagedBytes_transmit true b, stagedBytes_transmit false b⟩

/-! ### `WRITE_COMMAND` and `WRITE_DATA` (R110, R111, R115) -/

/-- The clear pulse and the three waits of the enable pulse: 10 + 1 + 80 + 100 microseconds. -/
theorem leastTime_busFrame (rs : Bool) (serial : Byte) : leastTime (busFrame rs serial) = 191 := rfl

/-- Settles O15: `run_writeCommand`. -/
theorem writeCommandSendsByte : Obligations.WriteCommandSendsByte := by
  refine ⟨decodeRequest_writeCommand, leastTime_busFrame _, fun s b h => ?_⟩
  obtain ⟨a, t, ha, hrun, -, hbus⟩ := run_writeCommand b h
  exact ⟨a, t, ha, hrun, hbus⟩

/-- Settles O16: `run_writeData`. -/
theorem writeDataSendsByte : Obligations.WriteDataSendsByte := by
  refine ⟨decodeRequest_writeData, leastTime_busFrame _, fun s b h => ?_⟩
  obtain ⟨a, t, ha, hrun, -, hbus⟩ := run_writeData b h
  exact ⟨a, t, ha, hrun, hbus⟩

/-- Settles O17: after the level of `RS` the bus-transfer frame depends on the byte put into the shift register only. -/
theorem commandAndDataDifferInRsOnly : Obligations.CommandAndDataDifferInRsOnly :=
  ⟨by decide, fun b m => ⟨.set .rw Config.rwWrite :: (serialFrame (mirrorIf m b) ++ enablePulse), rfl,
    eventsOf_busSeq Config.rsCmd (mirrorIf m b), eventsOf_busSeq Config.rsData (mirrorIf m b)⟩⟩

end Sys2Proof.Machine

/-! SUPPORT. Proofs of the statements about the addressing layer (44_addressing_layer.md): the set-address bytes, the runs of the
three operations, where `GOTO` leaves the controller. -/

namespace Sys2Proof.Machine

/-! ### The set-address bytes (30_encoding.md R66, R67) -/

/-- The bit of the command lies above the masked address, so the two do not overlap. -/
theorem toNat_addressCommand {k : Nat} (hk : k < 8) (addr : Nat) :
    (BitVec.ofNat 8 (2 ^ k ||| (addr &&& (2 ^ k - 1)))).toNat = 2 ^ k + addr % 2 ^ k := by
  have haddr : addr % 2 ^ k < 2 ^ k := Nat.mod_lt _ (Nat.two_pow_pos k)
  have hor : 2 ^ k + addr % 2 ^ k = 2 ^ k ||| addr % 2 ^ k := by simpa using Nat.two_pow_add_eq_or_of_lt haddr 1
  have hfits : 2 ^ k + addr % 2 ^ k < 2 ^ 8 :=
    calc 2 ^ k + addr % 2 ^ k < 2 ^ (k + 1) := by omega
      _ ≤ 2 ^ 8 := Nat.pow_le_pow_right (by decide) hk
  rw [Nat.and_two_pow_sub_one_eq_mod, ← hor, BitVec.toNat_ofNat, Nat.mod_eq_of_lt hfits]

theorem toNat_ddramCommand (addr : Nat) : (ddramCommand addr).toNat = 0x80 + addr % 128 :=
  toNat_addressCommand (k := 7) (by decide) addr

theorem toNat_cgramCommand (addr : Nat) : (cgramCommand addr).toNat = 0x40 + addr % 64 :=
  toNat_addressCommand (k := 6) (by decide) addr

/-- The controller reads the byte as its set-DDRAM-address command with the address mod 128. -/
theorem decodeCommand_ddramCommand (addr : Nat) :
    decodeCommand (ddramCommand addr) = .ok (.lcdSetDdramAddr (BitVec.ofNat 7 addr)) := by
  have hbyte : (1 : BitVec 1) ++ BitVec.ofNat 7 addr = ddramCommand addr := by
    apply BitVec.eq_of_toNat_eq
    rw [toNat_ddramCommand, BitVec.toNat_append, BitVec.toNat_ofNat]
    exact (Nat.shiftLeft_add_eq_or_of_lt (Nat.mod_lt _ (by decide)) 1).symm
  exact decodeCommand_of_encode (congrArg Code.command hbyte)

/-! ### The runs (R120, R121, R122) -/

/-- Settles O22: `run_setDdramAddr` sends the byte of `toNat_ddramCommand`. -/
theorem setDdramAddrSendsMaskedAddress : Obligations.SetDdramAddrSendsMaskedAddress := by
  refine ⟨decodeRequest_setDdramAddr, toNat_ddramCommand,
    fun m addr => entriesOf_setDdramAddr_congr m (Nat.add_mod_right addr 128), fun s addr h => ?_⟩
  obtain ⟨a, t, ha, hrun, -, hbus⟩ := run_setDdramAddr addr h
  exact ⟨a, t, ha, hrun, hbus⟩

/-- Settles O23: `run_setCgramAddr` sends the byte of `toNat_cgramCommand`. -/
theorem setCgramAddrSendsMaskedAddress : Obligations.SetCgramAddrSendsMaskedAddress := by
  refine ⟨decodeRequest_setCgramAddr, toNat_cgramCommand,
    fun m addr => entriesOf_setCgramAddr_congr m (Nat.add_mod_right addr 64), fun s addr h => ?_⟩
  obtain ⟨a, t, ha, hrun, -, hbus⟩ := run_setCgramAddr addr h
  exact ⟨a, t, ha, hrun, hbus⟩

theorem run_goto {s : State} (column row : Nat) (h : Ready s) :
    ∃ a t, exec (.goto column row) s = .next a ∧ runSteps 37 a = .next t ∧
      t.lcd.pending = none ∧ busRun [.wait 2000] [(Config.rsCmd, ddramCommand (gotoAddress column row))] s t :=
  run_operation (writes := [(Config.rsCmd, ddramCommand (gotoAddress column row))]) true h rfl rfl
    (by simp [entriesOf, gotoSeq, setDdramAddrSeq, commandSeq, writesSeq, mirroredWrites])

/-- Two rows fill the 7-bit address, and a column is added to it mod 128 (R123). -/
theorem gotoAddress_mod (column row : Nat) :
    gotoAddress column row % 128 = ((row % 2) * 64 + column % 128) % 128 := by
  simp only [gotoAddress, Config.rowStride]
  omega

/-- Settles O24: `run_goto`; the byte depends on the row mod 2 and the column mod 128 only (`gotoAddress_mod`), which 8 bits
keep. -/
theorem gotoSendsCursorAddress : Obligations.GotoSendsCursorAddress := by
  refine ⟨decodeRequest_goto, fun serial => congrArg (2000 + ·) (leastTime_busFrame _ serial), fun s column row h => ?_,
    fun column row => ⟨?_, ddramCommand_congr ?_⟩⟩
  · obtain ⟨a, t, ha, hrun, -, hbus⟩ := run_goto column row h
    exact ⟨a, t, ha, hrun, hbus⟩
  · rw [toNat_ddramCommand, gotoAddress_mod]
  · rw [gotoAddress_mod, gotoAddress_mod]
    omega

/-! ### The controller after `GOTO` (20_memory.md R44) -/

/-- With no other transfer pending, a command byte the controller has taken runs as its instruction. -/
theorem step_presentCommand {s : State} {b : Byte} {i : Instr} (hp : s.lcd.pending = none)
    (hd : decodeCommand b = .ok i) : step (presentCommand b s) = exec i s := by
  have hclear : clearPending (presentCommand b s) = s := by simp only [clearPending, presentCommand, ← hp]
  exact (stepRunsDecodedCommand _ b i rfl hd).trans (congrArg (exec i) hclear)

/-- The controller executes a set-DDRAM-address byte: of its memories only what is known stays (log 36). -/
theorem lcd_of_executes_ddramCommand {s t : State} {addr : Nat} (hp : s.lcd.pending = none) (hi : s.lcd.initBegun = true)
    (h : controllerExecutes [⟨Config.rsCmd, Config.rwWrite, ddramCommand addr⟩] s t) :
    t.lcd = { s.lcd with
      ac := BitVec.ofNat 7 addr, sel := .ddram
      ddram := knownMemory s s.lcd.ddram, cgram := knownMemory s s.lcd.cgram } := by
  obtain ⟨u, hu, hlcd, -⟩ := h
  obtain ⟨-, -, -, hset⟩ := addressCommandsOfController s hi
  have hstep := (step_presentCommand hp (decodeCommand_ddramCommand addr)).trans (hset _)
  cases hstep.symm.trans hu
  exact hlcd

/-- Settles O52: in a matched configuration the controller executes the byte `GOTO` sends. -/
theorem gotoPointsController : Obligations.GotoPointsController := by
  intro s column row h hm hi
  obtain ⟨a, t, ha, hrun, -, -, -, -, hex⟩ := run_goto column row h
  obtain ⟨-, -, hp, -⟩ := h
  simp only [List.map_cons, List.map_nil, sent_eq, if_pos hm] at hex
  have hlcd := lcd_of_executes_ddramCommand hp hi hex
  refine ⟨a, t, ha, hrun, ?_⟩
  rw [hlcd]
  exact ⟨rfl, BitVec.toNat_ofNat .., fun hknown => ⟨knownMemory_known hknown _, knownMemory_known hknown _⟩⟩

end Sys2Proof.Machine

/-! SUPPORT. Proofs of the statements about the display operations (45_display_operations.md): what they send and how long it takes,
the modes `INITIALIZE_DISPLAY` leaves, where the rows of a glyph land. -/

namespace Sys2Proof.Machine

/-! ### An operation without events (R140) -/

/-- Settles O30: an empty text loads nothing into `SEQ`, so acceptance writes the values the idle block already holds. -/
theorem emptyDrawStrChangesNothing : Obligations.EmptyDrawStrChangesNothing := by
  intro s hc hb hq ho
  calc exec (.drawStr []) s = .next (accept (.drawStr []) [] s) := issue_noStrobe hc hb rfl
    _ = .next { s with seq := [], busy := false, oper := none } := rfl
    _ = .next s := by simp only [← hq, ← hb, ← ho]

/-! ### The time the bus writes take (R181) -/

theorem leastTime_append (es es' : List Event) : leastTime (es ++ es') = leastTime es + leastTime es' := by
  induction es with
  | nil => simp [leastTime]
  | cons e es ih => cases e <;> simp [leastTime, ih, Nat.add_assoc]

/-- Each bus write takes at least 191 microseconds. -/
theorem leastTime_writesSeq (ws : List (Bool × Byte)) : leastTime (eventsOf (writesSeq ws)) = 191 * ws.length := by
  induction ws with
  | nil => rfl
  | cons w ws ih =>
    have hcons : eventsOf (writesSeq (w :: ws)) = busFrame w.1 w.2 ++ eventsOf (writesSeq ws) := eventsOf_append _ _
    rw [hcons, leastTime_append, leastTime_busFrame, ih, List.length_cons]
    omega

@[simp] theorem length_mirroredWrites (m : Bool) (writes : List (Bool × Byte)) :
    (mirroredWrites m writes).length = writes.length :=
  List.length_map _

/-! ### What the four operations send (R130 to R133) -/

theorem entriesOf_initializeDisplay (m : Bool) :
    entriesOf m .initializeDisplay = initSettleSeq ++ writesSeq (mirroredWrites m initWrites) := by
  simp [entriesOf, initializeDisplaySeq, commandSeq, writesSeq, mirroredWrites, initWrites]

/-- The two commands of `CLEAR_DISPLAY`, in order (R131). -/
def clearWrites : List (Bool × Byte) := [(Config.rsCmd, Config.cmdClear), (Config.rsCmd, Config.cmdHome)]

theorem entriesOf_clearDisplay (m : Bool) :
    entriesOf m .clearDisplay = settleSeq ++ writesSeq (mirroredWrites m clearWrites) := by
  simp [entriesOf, clearDisplaySeq, commandSeq, writesSeq, mirroredWrites, clearWrites]

theorem entriesOf_drawStr (m : Bool) (text : List Byte) :
    entriesOf m (.drawStr text) = writesSeq (mirroredWrites m (text.map (Config.rsData, ·))) :=
  flatMap_dataSeq m text

/-- Settles O26: `run_initializeDisplay`; the settle wait and three bus writes take 2000 + 3 * 191 microseconds. -/
theorem initializeDisplaySendsModes : Obligations.InitializeDisplaySendsModes := by
  refine ⟨decodeRequest_initializeDisplay, fun m => ?_, fun s h => ?_⟩
  · rw [entriesOf_initializeDisplay, eventsOf_append, leastTime_append, leastTime_writesSeq, length_mirroredWrites]
    rfl
  · obtain ⟨a, t, ha, hrun, -, hbus⟩ := run_initializeDisplay h
    exact ⟨a, t, ha, hrun, hbus⟩

/-- Settles O27: the settle wait and two bus writes, by `run_operation`. -/
theorem clearDisplaySendsClearThenHome : Obligations.ClearDisplaySendsClearThenHome := by
  refine ⟨decodeRequest_clearDisplay, fun m => ?_, fun s h => ?_⟩
  · rw [entriesOf_clearDisplay, eventsOf_append, leastTime_append, leastTime_writesSeq, length_mirroredWrites]
    rfl
  · obtain ⟨a, t, ha, hrun, -, hbus⟩ := run_operation true h rfl rfl (entriesOf_clearDisplay s.mirrored)
    exact ⟨a, t, ha, hrun, hbus⟩

/-- The slot masked to 3 bits fits the 6-bit address of the command (R137). -/
theorem cgramCommand_slotAddress (slot : Nat) :
    cgramCommand (slotAddress slot) = BitVec.ofNat 8 (0x40 ||| (slot &&& 0x07)) := by
  have hmask : slotAddress slot &&& Config.cgramMask = slot &&& 0x07 := by
    rw [slotAddress, Config.cgSlotShift, Nat.shiftLeft_zero, Nat.and_assoc]
    rfl
  rw [cgramCommand, hmask]
  rfl

/-- Settles O28: `run_createCustomChar`, nine bus writes. -/
theorem createCustomCharSendsGlyph : Obligations.CreateCustomCharSendsGlyph := by
  refine ⟨fun A B g pl => decodeRequest_createCustomChar A B pl g, fun m slot g => ?_, fun s slot g h => ?_⟩
  · rw [entriesOf_createCustomChar, leastTime_writesSeq, length_mirroredWrites]
    rfl
  · obtain ⟨a, t, ha, hrun, -, hbus⟩ := run_createCustomChar slot g h
    rw [glyphWrites, cgramCommand_slotAddress] at hbus
    exact ⟨a, t, ha, hrun, hbus⟩

/-- Settles O29: one bus write for each byte of the text, by `run_operation`. -/
theorem drawStrSendsEachByte : Obligations.DrawStrSendsEachByte := by
  refine ⟨fun text pl h => decodeRequest_drawStr pl h, fun m text => ?_, fun s text h => ?_⟩
  · rw [entriesOf_drawStr, leastTime_writesSeq, length_mirroredWrites, List.length_map]
  · obtain ⟨a, t, ha, hrun, -, hbus⟩ := run_operation false h rfl rfl (entriesOf_drawStr s.mirrored text)
    exact ⟨a, t, ha, by simpa using hrun, hbus⟩

/-! ### What the controller makes of the first of several transfers (20_memory.md R44) -/

/-- In a matched configuration the controller receives the bytes as the operation writes them (20_memory.md R42). -/
theorem map_sent_matched {s : State} (hm : matched s = true) (writes : List (Bool × Byte)) :
    writes.map (sent s) = writes.map (fun w => ⟨w.1, Config.rwWrite, w.2⟩) :=
  List.map_congr_left fun w _ => by rw [sent_eq, if_pos hm]

section
variable {s t u : State} {b : Byte} {ts : List Transfer}

/-- A command byte runs as its instruction, and the controller goes on from there. -/
theorem controllerExecutes_command {i : Instr} (hp : s.lcd.pending = none) (hd : decodeCommand b = .ok i)
    (hx : exec i s = .next u) (h : controllerExecutes (⟨Config.rsCmd, Config.rwWrite, b⟩ :: ts) s t) :
    controllerExecutes ts u t := by
  obtain ⟨v, hv, hrest⟩ := h
  cases ((step_presentCommand hp hd).trans hx).symm.trans hv
  exact hrest

/-- A data byte is stored, and the controller goes on from there. -/
theorem controllerExecutes_data (hp : s.lcd.pending = none)
    (h : controllerExecutes (⟨Config.rsData, Config.rwWrite, b⟩ :: ts) s t) :
    controllerExecutes ts (controllerRuns (storeData b) s) t := by
  obtain ⟨v, hv, hrest⟩ := h
  have hclear : clearPending { s with lcd := { s.lcd with pending := some ⟨Config.rsData, Config.rwWrite, b⟩ } } = s := by
    simp only [clearPending, ← hp]
  rw [step_storeData rfl, hclear] at hv
  cases hv
  exact hrest

end

/-! ### The modes `INITIALIZE_DISPLAY` leaves (R130) -/

/-- Transfers do not change how the premise of U2 stands, so what one of them leaves known the next leaves too. -/
theorem knownMemory_knownMemory {s s' : State} (h : s'.lcd.order = s.lcd.order) (m : Memory) :
    knownMemory s' (knownMemory s m) = knownMemory s m := by
  by_cases hb : s.lcd.order = .broken
  · rw [knownMemory_broken hb, knownMemory_broken (h.trans hb)]
  · rw [knownMemory_known hb, knownMemory_known (h ▸ hb)]

/-- The controller executes the three mode commands: the mode bits are those they name, of the memories what is known stays
(log 36), and the rest is as before. -/
theorem lcd_of_executes_initWrites {s t : State} (hp : s.lcd.pending = none) (hi : s.lcd.initBegun = true)
    (h : controllerExecutes (initWrites.map (fun w => ⟨w.1, Config.rwWrite, w.2⟩)) s t) :
    t.lcd = { s.lcd with
      inc := true, shift := false, displayOn := true, cursorOn := false, blinkOn := false, bus8 := true, twoLine := true
      font10 := false, ddram := knownMemory s s.lcd.ddram, cgram := knownMemory s s.lcd.cgram } := by
  have hentry := controllerExecutes_command (i := .lcdEntryModeSet true false) hp rfl rfl h
  have hp1 := controllerRuns_pending (setEntryMode_effect true false) hp
  have hdisplay := controllerExecutes_command (i := .lcdDisplayControl true false false) hp1 rfl rfl hentry
  have hp2 := controllerRuns_pending (setDisplayControl_effect true false false) hp1
  obtain ⟨hlcd, -⟩ := controllerExecutes_command (i := .lcdFunctionSet true true false) hp2 rfl rfl hdisplay
  rw [hlcd]
  simp [controllerRuns_after, hi, setEntryMode, setDisplayControl, setFunction, Lcd.forget_eq (s := s),
    knownMemory_knownMemory]

/-- Settles O50: the three commands run in the controller `beginInit` leaves, which knows the memories if this initialisation is the
first. -/
theorem initializeDisplaySetsControllerModes : Obligations.InitializeDisplaySetsControllerModes := by
  intro s h hm
  obtain ⟨a, t, ha, hrun, -, -, -, -, hex⟩ := run_initializeDisplay h
  obtain ⟨-, -, hp, -⟩ := h
  rw [map_sent_matched (s := beginInit s) hm] at hex
  refine ⟨a, t, ha, hrun, ?_⟩
  rw [lcd_of_executes_initWrites (by simpa using hp) (by simp) hex]
  by_cases hfirst : s.lcd.order = .clean
  · simp [knownMemory, Lcd.beginInit_clean hfirst, hfirst]
  · simp [knownMemory, Lcd.beginInit_notClean hfirst, hfirst]

/-! ### Where the rows of a glyph land (R137) -/

/-- The controller reads the byte as its set-CGRAM-address command with the address mod 64. -/
theorem decodeCommand_cgramCommand (addr : Nat) :
    decodeCommand (cgramCommand addr) = .ok (.lcdSetCgramAddr (BitVec.ofNat 6 addr)) := by
  have hbyte : (1 : BitVec 2) ++ BitVec.ofNat 6 addr = cgramCommand addr := by
    apply BitVec.eq_of_toNat_eq
    rw [toNat_cgramCommand, BitVec.toNat_append, BitVec.toNat_ofNat]
    exact (Nat.shiftLeft_add_eq_or_of_lt (Nat.mod_lt _ (by decide)) 1).symm
  exact decodeCommand_of_encode (congrArg Code.command hbyte)

theorem slotAddress_eq_mod (slot : Nat) : slotAddress slot = slot % 8 :=
  Nat.and_two_pow_sub_one_eq_mod slot 3

/-- A data byte with SEL CGRAM and the entry mode incrementing, at an address that does not wrap at 6 bits: the byte is stored
there, as far as the memories are known (log 36), and the address counter moves on by one. -/
theorem controllerRuns_storeData_cgram (b : Byte) {s : State} (hi : s.lcd.initBegun = true) (hsel : s.lcd.sel = .cgram)
    (hinc : s.lcd.inc = true) (hac : s.lcd.ac.toNat + 1 < 64) :
    controllerRuns (storeData b) s = { s with
      lcd := { s.lcd with
        ac := s.lcd.ac + 1
        ddram := knownMemory s s.lcd.ddram
        cgram := knownMemory s (s.lcd.cgram.write s.lcd.ac.toNat b) }
      receiverDraws := s.receiverDraws + 1 } := by
  have hnext : advancedAddress s.lcd s.receiverDraws = s.lcd.ac + 1 := by
    have hmask : (s.lcd.ac + 1) &&& 0x3F = s.lcd.ac + 1 := by
      apply BitVec.eq_of_toNat_eq
      rw [toNat_and_cgramMask]
      bv_omega
    simp only [advancedAddress, nextAddress, hinc, if_true, hsel, hmask]
  have hlcd := storeData_lcd_cgram b hsel
  rw [hnext, toNat_and_cgramMask, Nat.mod_eq_of_lt (by omega)] at hlcd
  rw [controllerRuns_after _ hi, Lcd.forget_eq (s := s) ((storeData_effect b).order s), hlcd]
  rfl

/-- From `s` the controller has stored the bytes in CGRAM from address `start` on, in order, and nothing else, as far as the
memories are known (log 36). -/
structure StoredInCgram (bytes : List Byte) (start : Nat) (s t : State) : Prop where
  memories : s.lcd.order ≠ .broken →
    (∀ k, k < bytes.length → t.lcd.cgram.read (start + k) = bytes[k]?) ∧
    (∀ x, x < start ∨ start + bytes.length ≤ x → t.lcd.cgram.read x = s.lcd.cgram.read x) ∧
    t.lcd.ddram = s.lcd.ddram
  sel : t.lcd.sel = .cgram
  ac : t.lcd.ac.toNat = start + bytes.length

theorem StoredInCgram.nil {s t : State} (hsel : s.lcd.sel = .cgram) (h : t.lcd = s.lcd) :
    StoredInCgram [] s.lcd.ac.toNat s t where
  memories _ := by
    rw [h]
    exact ⟨fun k hk => absurd hk (Nat.not_lt_zero k), fun _ _ => rfl, rfl⟩
  sel := by rw [h, hsel]
  ac := by rw [h]; rfl

/-- The byte at the first address is the first one, and the rest are stored from the next address on. -/
theorem StoredInCgram.cons {b : Byte} {bytes : List Byte} {start : Nat} {s u t : State}
    (h : StoredInCgram bytes (start + 1) u t) (hcgram : u.lcd.cgram = knownMemory s (s.lcd.cgram.write start b))
    (hddram : u.lcd.ddram = knownMemory s s.lcd.ddram) (horder : u.lcd.order = s.lcd.order) :
    StoredInCgram (b :: bytes) start s t where
  memories hk := by
    obtain ⟨hrows, helse, hd⟩ := h.memories (horder ▸ hk)
    rw [knownMemory_known hk] at hcgram hddram
    simp only [hcgram, Memory.read_write] at helse
    refine ⟨fun k hlt => ?_, fun x hx => ?_, hd.trans hddram⟩
    · cases k with
      | zero => exact (helse start (.inl (by omega))).trans (if_pos rfl)
      | succ k => rw [List.getElem?_cons_succ, ← hrows k (by simpa using hlt), Nat.add_right_comm, Nat.add_assoc]
    · rw [List.length_cons] at hx
      exact (helse x (by omega)).trans (if_neg (by omega))
  sel := h.sel
  ac := by rw [h.ac, List.length_cons, Nat.add_right_comm, Nat.add_assoc]

/-- The controller executes data transfers with SEL CGRAM and the entry mode incrementing: the bytes are stored from its address on,
as long as that does not wrap at 6 bits. -/
theorem storedInCgram_of_executes_data {bytes : List Byte} {start : Nat} {s t : State}
    (h : controllerExecutes (bytes.map (fun b => ⟨Config.rsData, Config.rwWrite, b⟩)) s t) (hp : s.lcd.pending = none)
    (hi : s.lcd.initBegun = true) (hsel : s.lcd.sel = .cgram) (hinc : s.lcd.inc = true) (hac : s.lcd.ac.toNat = start)
    (hfits : start + bytes.length < 64) : StoredInCgram bytes start s t := by
  induction bytes generalizing s start with
  | nil =>
    subst hac
    exact .nil hsel h.1
  | cons b bytes ih =>
    subst hac
    rw [List.length_cons] at hfits
    have hrest := controllerExecutes_data hp h
    rw [controllerRuns_storeData_cgram b hi hsel hinc (by omega)] at hrest
    have hsucc : (s.lcd.ac + 1).toNat = s.lcd.ac.toNat + 1 := by bv_omega
    have htail := ih hrest hp hi hsel hinc hsucc (by omega)
    exact htail.cons rfl rfl rfl

/-- Settles O51: the command points the address counter at `slot & 7`, and the eight bytes that follow are stored from there on. -/
theorem glyphRowsLandAtSlot : Obligations.GlyphRowsLandAtSlot := by
  intro s slot g h hm hi hinc
  obtain ⟨a, t, ha, hrun, -, -, -, -, hex⟩ := run_createCustomChar slot g h
  obtain ⟨-, -, hp, -⟩ := h
  rw [map_sent_matched hm, glyphWrites, List.map_cons, List.map_map] at hex
  obtain ⟨-, -, hset, -⟩ := addressCommandsOfController s hi
  have hdata := controllerExecutes_command hp (decodeCommand_cgramCommand _) (hset _) hex
  have hac : ((BitVec.ofNat 6 (slotAddress slot)).setWidth 7).toNat = slot % 8 := by
    rw [slotAddress_eq_mod, BitVec.toNat_setWidth, BitVec.toNat_ofNat]
    omega
  have hfits : slot % 8 + (glyphBytes g).length < 64 := by
    change slot % 8 + 8 < 64
    omega
  obtain ⟨hmem, hsel, hend⟩ := storedInCgram_of_executes_data hdata hp hi rfl hinc hac hfits
  refine ⟨a, t, ha, hrun, fun hk => ?_, hsel, hend⟩
  simp only [knownMemory_known hk] at hmem
  exact hmem hk

end Sys2Proof.Machine

/-! SUPPORT. Proofs of the statements about exceptions (60_exceptions.md): what is refused and by which name, what a busy and an idle
block leave alone, why a step stops, the load of the delay counter. -/

namespace Sys2Proof.Machine

/-! ### Why an operation is refused, and when it is not -/

section
variable {s : State}

theorem issue_busy (i : Instr) (es : List SeqEntry) (hb : s.busy = true) :
    issue i es s = .refused .requestWhileBusy := by
  simp [issue, hb]

theorem issue_notConfigured (i : Instr) (es : List SeqEntry) (hc : s.configured = false) (hb : s.busy = false) :
    issue i es s = .refused .notConfigured := by
  simp [issue, hc, hb]

theorem exec_setup_busy (pins : PerRole PinId) (m : Bool) (hb : s.busy = true) :
    exec (.setup pins m) s = .refused .requestWhileBusy := by
  simp [exec, execSetup, hb]

theorem exec_setup_idle (pins : PerRole PinId) (m : Bool) (hb : s.busy = false) :
    exec (.setup pins m) s =
      .next (accept (.setup pins m) (setupSeq pins Config.logicalDefault) (bindHandle pins m s)) := by
  simp [exec, execSetup, hb]

/-- Settles O31: the operation is issued, and `issue` looks at `CONFIGURED` first when the block is idle. -/
theorem operationBeforeSetupRefused : Obligations.OperationBeforeSetupRefused := by
  intro i s hi hs hc hb
  rw [exec_eq_issue s hi hs, issue_notConfigured _ _ hc hb]

/-- Settles O32: `SETUP` and the operations that are issued look at `BUSY` before anything else. -/
theorem forcedRequestRefused : Obligations.ForcedRequestRefused := by
  intro i s hi hb
  cases hs : isSetup i with
  | true =>
    obtain ⟨pins, m, rfl⟩ := eq_setup_of_isSetup hs
    exact exec_setup_busy pins m hb
  | false => rw [exec_eq_issue s hi hs, issue_busy _ _ hb]

/-- An idle block whose `EN` is low once `SETUP` has completed accepts every operation, but before `SETUP` only `SETUP`
(R156). -/
theorem exec_operation_idle {i : Instr} (hi : isOperation i = true) (hb : s.busy = false)
    (he : s.configured = true → s.line.en = false) :
    (∃ a, exec i s = .next a) ∨
      (isSetup i = false ∧ s.configured = false ∧ exec i s = .refused .notConfigured) := by
  cases hs : isSetup i with
  | true =>
    obtain ⟨pins, m, rfl⟩ := eq_setup_of_isSetup hs
    exact .inl ⟨_, exec_setup_idle pins m hb⟩
  | false =>
    cases hc : s.configured with
    | true => exact .inl ⟨_, (exec_eq_issue s hi hs).trans (issue_ready hc hb (he hc))⟩
    | false => exact .inr ⟨rfl, rfl, operationBeforeSetupRefused i s hi hs hc hb⟩

/-! ### The step of a busy block and of an idle one -/

@[simp] theorem advance_requests (s : State) : (advance s).requests = s.requests := by
  unfold advance
  split
  · rfl
  · split <;> simp

@[simp] theorem advance_payload (s : State) : (advance s).payload = s.payload := by
  unfold advance
  split
  · rfl
  · split <;> simp

theorem step_eq_advance (hp : s.lcd.pending = none) (hb : s.busy = true) : step s = .next (advance s) := by
  simp [step, fetch, hp, hb]

theorem step_noRequest (hp : s.lcd.pending = none) (hb : s.busy = false) (hr : s.requests = []) :
    step s = .next s := by
  simp [step, fetch, hp, hb, fetchRequest, hr]

/-- A busy block's step, the controller's or the sequencer's, goes on and leaves the port alone (R158). -/
theorem step_busy_keeps_port (hb : s.busy = true) :
    ∃ t, step s = .next t ∧ t.requests = s.requests ∧ t.payload = s.payload := by
  cases hp : s.lcd.pending with
  | some tr =>
    obtain ⟨l, d, hstep, -⟩ := step_pending hp
    exact ⟨_, hstep, rfl, rfl⟩
  | none => exact ⟨_, step_eq_advance hp hb, advance_requests s, advance_payload s⟩

end

/-- Settles O34: the port shows `BUSY` negated, and `step_busy_keeps_port`. -/
theorem requestHeldWhileBusy : Obligations.RequestHeldWhileBusy :=
  ⟨fun _ => rfl, fun _ hb => step_busy_keeps_port hb⟩

/-- Settles O36: `step_noRequest` and `step_payloadMissing`. -/
theorem idleStepChangesNothing : Obligations.IdleStepChangesNothing := by
  rintro s hp hb (hr | ⟨w, more, n, hr, hd⟩)
  · exact step_noRequest hp hb hr
  · exact step_payloadMissing hp hb hr hd

/-! ### Why a step stops -/

/-- A request that decodes to an operation other than `SETUP` has an operation number from 0x1 to 0xB (30_encoding.md R56, R57). -/
theorem opField_of_decodeRequest {w : ReqWord} {pl rest : List Byte} {i : Instr} (hd : decodeRequest w pl = .ok i rest)
    (hs : isSetup i = false) : 0x0 < (opField w).toNat ∧ (opField w).toNat ≤ 0xB := by
  constructor
  · refine Nat.pos_of_ne_zero fun hop => ?_
    simp only [decodeRequest, hop] at hd
    split at hd <;> cases hd
    cases hs
  · by_contra hop
    have hreserved := (decodeRequest_eq_reserved w pl _).2 ⟨rfl, by omega⟩
    rw [hd] at hreserved
    cases hreserved

/-- What the idle block does with the request at the port, if `EN` is low once `SETUP` has completed: it goes on, unless `SETUP` has not
been performed (R156) or the operation number is reserved (30_encoding.md R57). -/
theorem step_idle_request {s : State} {w : ReqWord} {more : List ReqWord} (hp : s.lcd.pending = none) (hb : s.busy = false)
    (hr : s.requests = w :: more) (he : s.configured = true → s.line.en = false) :
    (∃ t, step s = .next t) ∨
      (s.configured = false ∧ 0x0 < (opField w).toNat ∧ (opField w).toNat ≤ 0xB ∧ step s = .refused .notConfigured) ∨
      (0xC ≤ (opField w).toNat ∧ step s = .refused (.reservedOperation (opField w))) := by
  cases hd : decodeRequest w s.payload with
  | payloadMissing n => exact .inl ⟨_, step_payloadMissing hp hb hr hd⟩
  | reservedOperation op =>
    obtain ⟨rfl, hop⟩ := (decodeRequest_eq_reserved w s.payload op).1 hd
    exact .inr (.inr ⟨hop, step_reserved hp hb hr hd⟩)
  | ok i rest =>
    have hexec := exec_operation_idle (s := { s with requests := more, payload := rest }) (decodeRequest_operation hd) hb he
    rw [← step_request hp hb hr hd] at hexec
    obtain hnext | ⟨hs, hc, hstep⟩ := hexec
    · exact .inl hnext
    · obtain ⟨hpos, hle⟩ := opField_of_decodeRequest hd hs
      exact .inr (.inl ⟨hc, hpos, hle, hstep⟩)

/-- Settles O37: a pending transfer and a busy block go on; the invariant holds `EN` low in an idle block that `SETUP` has configured,
so `step_idle_request` says why the idle block stops. -/
theorem stepStopsOnlyByName : Obligations.StepStopsOnlyByName := by
  rintro s ⟨hseq, hline, -⟩
  cases hp : s.lcd.pending with
  | some tr =>
    obtain ⟨l, d, hstep, -⟩ := step_pending hp
    exact .inl ⟨_, hstep⟩
  | none =>
    cases hb : s.busy with
    | true => exact .inl ⟨_, step_eq_advance hp hb⟩
    | false =>
      cases hr : s.requests with
      | nil => exact .inl ⟨_, step_noRequest hp hb hr⟩
      | cons w more =>
        have hen (hc : s.configured = true) : s.line.en = false := by
          obtain ⟨⟨-, -, hen, -⟩, -⟩ := restLevels_of_idle hseq hline hc hb
          exact hen
        exact (step_idle_request hp hb hr hen).imp_right fun hstop => ⟨rfl, rfl, w, more, rfl, hstop⟩

/-! ### The delay counter (R161) -/

/-- The counts the load does not exceed are those that are at least 1 and last at least the wait. -/
theorem delayLoad_le_iff {tClkNs us n : Nat} (h : 0 < tClkNs) :
    delayLoad tClkNs us ≤ n ↔ 1 ≤ n ∧ us * 1000 ≤ n * tClkNs := by
  rw [delayLoad, max_le_iff, ← Nat.ceilDiv_eq_add_pred_div, ceilDiv_le_iff_le_mul h, Nat.mul_comm tClkNs]

/-- Settles O60: the load is itself such a count, and the least one, by `delayLoad_le_iff`. -/
theorem delayLoadIsCeiling : Obligations.DelayLoadIsCeiling := by
  intro tClkNs us h
  obtain ⟨hpos, hlasts⟩ := (delayLoad_le_iff h).1 (le_refl (delayLoad tClkNs us))
  exact ⟨hpos, hlasts, fun n hn hwait => (delayLoad_le_iff h).2 ⟨hn, hwait⟩⟩

end Sys2Proof.Machine

/-! SUPPORT. Proofs of the statements about reset and hazards (70_reset_and_hazards.md): `EN` while a byte is shifted, the table of
R181, the runs of the twelve operations to completion, the controller before `INITIALIZE_DISPLAY`. -/

namespace Sys2Proof.Machine

/-! ### `EN` and the clock while a byte is shifted (R176) -/

/-- The effects of the entries outside `SETUP`: after them the lines are where the event puts them. -/
def Effect.outsideSetup (f : Effect) : Bool :=
  match f with
  | .plain => true
  | .stage _ => true
  | .initBegins => true
  | .modeOutput _ => false
  | .idleLevel => false
  | .configure => false

/-- No operation but `SETUP` leaves a line at a free level or the receivers unspecified. -/
theorem all_outsideSetup_entriesOf (m : Bool) {i : Instr} (hs : isSetup i = false) :
    (entriesOf m i).all (fun e => e.effect.outsideSetup) = true := by
  refine entriesOf_induction (C := fun es => es.all (fun e => e.effect.outsideSetup) = true) rfl (fun h h' => ?_)
    (fun _ => rfl) rfl (fun _ => rfl) rfl rfl m hs
  rw [List.all_append, h, h', Bool.and_self]

/-- The discipline asks `mayDrive` of the next event, if it is outside `SETUP`. -/
theorem Disciplined.mayDrive {l : PerRole Bool} {e : SeqEntry} {rest : List SeqEntry} (h : Disciplined l (e :: rest))
    (he : e.effect.outsideSetup = true) : mayDrive l e.event := by
  obtain ⟨ev, eff⟩ := e
  cases eff with
  | plain => exact h.1
  | stage b => exact h.1
  | initBegins => exact h.1
  | modeOutput r => cases he
  | idleLevel => cases he
  | configure => cases he

/-- What `mayDrive` asks of a `Set` event: `EN` low unless it is on `EN`, the clock low if it is on the data line. -/
theorem mayDrive_set {l : PerRole Bool} {r : Role} {v : Bool} (h : mayDrive l (.set r v)) :
    (r ≠ .en → l.en = false) ∧ (r = .srdat → l.srclk = false) := by
  cases r with
  | srdat => exact ⟨fun _ => h.1, fun _ => h.2⟩
  | en => exact ⟨fun hne => absurd rfl hne, nofun⟩
  | srclk => exact ⟨fun _ => h, nofun⟩
  | srclr => exact ⟨fun _ => h, nofun⟩
  | rs => exact ⟨fun _ => h, nofun⟩
  | rw => exact ⟨fun _ => h, nofun⟩

/-- Under the invariant the next entry of an operation other than `SETUP` is one of that operation's. -/
theorem outsideSetup_of_seqInv {s : State} {e : SeqEntry} {rest : List SeqEntry} (h : SeqInv s) (hq : s.seq = e :: rest)
    (hs : ∀ i, s.oper = some i → isSetup i = false) : e.effect.outsideSetup = true := by
  obtain ⟨-, -, hnil⟩ | ⟨-, i, k, ho, -, -, hdrop, -⟩ := h
  · rw [hq] at hnil; cases hnil
  · have hmem : e ∈ (entriesOf s.mirrored i).drop k := by rw [← hdrop, hq]; exact List.mem_cons_self
    exact List.all_eq_true.1 (all_outsideSetup_entriesOf _ (hs i ho)) e (List.mem_of_mem_drop hmem)

/-- Settles O55: the invariant holds after the run, so the lines keep the discipline, which asks `mayDrive` of the next event. -/
theorem enableLowWhileShifting : Obligations.EnableLowWhileShifting := by
  intro n s t hs hrun e rest r v hq hb hset hev
  obtain ⟨hseq, hline, -⟩ := runSteps_keeps stepKeepsInvariant hs hrun
  have hd : Disciplined t.line (e :: rest) := hq ▸ hline (.inr hb)
  have hdrive := hd.mayDrive (outsideSetup_of_seqInv hseq hq hset)
  rw [hev] at hdrive
  exact mayDrive_set hdrive

/-! ### The table of R181 -/

/-- The first three columns of the table for a list of entries: events, waits among them, the time these take. -/
structure Tally (es : List SeqEntry) (events waits least : Nat) : Prop where
  events : (eventsOf es).length = events
  waits : ((eventsOf es).filter Event.isWait).length = waits
  least : leastTime (eventsOf es) = least

theorem Tally.append {es es' : List SeqEntry} {n n' w w' d d' : Nat} (h : Tally es n w d) (h' : Tally es' n' w' d') :
    Tally (es ++ es') (n + n') (w + w') (d + d') where
  events := by rw [eventsOf_append, List.length_append, h.events, h'.events]
  waits := by rw [eventsOf_append, List.filter_append, List.length_append, h.waits, h'.waits]
  least := by rw [eventsOf_append, leastTime_append, h.least, h'.least]

theorem tally_settleSeq : Tally settleSeq 1 1 2000 := ⟨rfl, rfl, rfl⟩

theorem tally_initSettleSeq : Tally initSettleSeq 1 1 2000 := ⟨rfl, rfl, rfl⟩

theorem tally_busSeq (rs : Bool) (b : Byte) : Tally (busSeq rs b) 35 4 191 := ⟨rfl, rfl, rfl⟩

/-- Each bus write is one frame of R61. -/
theorem tally_writesSeq (ws : List (Bool × Byte)) :
    Tally (writesSeq ws) (35 * ws.length) (4 * ws.length) (191 * ws.length) := by
  induction ws with
  | nil => exact ⟨rfl, rfl, rfl⟩
  | cons w ws ih =>
    have hrow (k : Nat) : k * (w :: ws).length = k + k * ws.length := by
      rw [List.length_cons, Nat.mul_succ, Nat.add_comm]
    rw [hrow, hrow, hrow]
    exact (tally_busSeq w.1 w.2).append ih

/-- The table, row by row. -/
theorem tally_entriesOf (m : Bool) {i : Instr} (hi : isOperation i = true) :
    Tally (entriesOf m i) (eventCount i) (waitCount i) (minDuration i) := by
  cases i with
  | setup pins mirrored => exact ⟨rfl, rfl, rfl⟩
  | transmit b => exact ⟨rfl, rfl, rfl⟩
  | pulseEnable => exact ⟨rfl, rfl, rfl⟩
  | writeCommand b => exact tally_busSeq _ _
  | writeData b => exact tally_busSeq _ _
  | setDdramAddr addr => exact tally_busSeq _ _
  | setCgramAddr addr => exact tally_busSeq _ _
  | goto column row => exact tally_settleSeq.append (tally_busSeq _ _)
  | initializeDisplay =>
    rw [entriesOf_initializeDisplay]
    change Tally _ (1 + 35 * 3) (1 + 4 * 3) (2000 + 191 * 3)
    exact tally_initSettleSeq.append (tally_writesSeq _)
  | clearDisplay =>
    rw [entriesOf_clearDisplay]
    change Tally _ (1 + 35 * 2) (1 + 4 * 2) (2000 + 191 * 2)
    exact tally_settleSeq.append (tally_writesSeq _)
  | createCustomChar slot glyph => rw [entriesOf_createCustomChar]; exact tally_writesSeq _
  | drawStr text =>
    have htext := tally_writesSeq (mirroredWrites m (text.map (Config.rsData, ·)))
    rw [length_mirroredWrites, List.length_map] at htext
    rw [entriesOf_drawStr]
    exact htext
  | _ => cases hi

/-- Each byte written is one bus transfer; `PULSE_ENABLE` makes its own without writing one. -/
theorem length_bytesWritten {i : Instr} (hp : i ≠ .pulseEnable) : (bytesWritten i).length = transferCount i := by
  cases i with
  | pulseEnable => exact absurd rfl hp
  | _ => rfl

/-- Settles O8: the first three columns are `tally_entriesOf`, and each byte handed to `TRANSMIT` is a byte written. -/
theorem eventCountsAndDurations : Obligations.EventCountsAndDurations := by
  intro i m hi
  obtain ⟨hevents, hwaits, hleast⟩ := tally_entriesOf m hi
  refine ⟨hevents, hwaits, hleast, fun hp ht => ?_⟩
  rw [stagedBytes_entriesOf m ht, List.length_map, length_bytesWritten hp]

/-! ### Every operation runs to completion (R182) -/

/-- From `s` the operation has run to completion in `t`: the block is idle at the levels of R29, and the trace and the transfers
have grown by the operation's own. -/
def OperationDone (i : Instr) (s t : State) : Prop :=
  t.busy = false ∧ t.seq = [] ∧ t.oper = none ∧ t.configured = true ∧ restLevels t.line ∧ t.lcd.pending = none ∧
    t.trace = s.trace ++ eventsOf (entriesOf s.mirrored i) ∧ t.received.length = s.received.length + transferCount i

/-- The operation is accepted in `s` and is done after one step for each event and each transfer (log 8). -/
def RunsToCompletion (i : Instr) (s : State) : Prop :=
  ∃ a t, exec i s = .next a ∧ runSteps (eventCount i + transferCount i) a = .next t ∧ OperationDone i s t

theorem eventsOf_writesSeq (ws : List (Bool × Byte)) :
    eventsOf (writesSeq ws) = ws.flatMap (fun w => busFrame w.1 w.2) := by
  induction ws with
  | nil => rfl
  | cons w ws ih =>
    have hcons : eventsOf (writesSeq (w :: ws)) = busFrame w.1 w.2 ++ eventsOf (writesSeq ws) := eventsOf_append _ _
    rw [hcons, ih, List.flatMap_cons]

/-- A list of bus writes ends at the levels of R29: at those of the last frame, or where it began. -/
theorem restLevels_of_lastWrite {last : Option (Bool × Byte)} {s t : State} (hs : restLevels s.line)
    (h : lastWrite last s t) : restLevels t.line := by
  cases last with
  | none => rw [h.1]; exact hs
  | some w => rw [h.1]; exact ⟨rfl, rfl, rfl, rfl⟩

/-- An operation whose entries are `lead` and then bus writes is done where these have run. -/
theorem operationDone_of_busRun {i : Instr} {s t : State} {lead : List SeqEntry} {writes : List (Bool × Byte)}
    (hc : s.configured = true) (hl : restLevels s.line) (hp : t.lcd.pending = none)
    (hes : entriesOf s.mirrored i = lead ++ writesSeq (mirroredWrites s.mirrored writes))
    (hw : writes.length = transferCount i) (h : busRun (eventsOf lead) writes s t) : OperationDone i s t := by
  obtain ⟨⟨htrace, hbusy, hseq, hoper, -, -, -, hconf, -⟩, hlast, hrec, -⟩ := h
  refine ⟨hbusy, hseq, hoper, hconf.trans hc, restLevels_of_lastWrite hl hlast, hp, ?_, ?_⟩
  · rw [htrace, hes, eventsOf_append, eventsOf_writesSeq, mirroredWrites, List.flatMap_map]
  · rw [hrec, List.length_append, List.length_map, hw]

/-- An operation that makes bus writes and is not `INITIALIZE_DISPLAY`, after the settle wait or without it. -/
theorem runsToCompletion_of_writes {i : Instr} {s : State} {writes : List (Bool × Byte)} (settle : Bool) (h : Ready s)
    (hi : isOperation i = true) (hs : isSetup i = false)
    (hes : entriesOf s.mirrored i = (if settle then settleSeq else []) ++ writesSeq (mirroredWrites s.mirrored writes))
    (hw : writes.length = transferCount i) : RunsToCompletion i s := by
  have hcount : eventCount i = (if settle then 1 else 0) + 35 * writes.length := by
    have htally := (tally_entriesOf s.mirrored hi).events
    rw [hes, eventsOf_append, List.length_append, (tally_writesSeq _).events, length_mirroredWrites] at htally
    cases settle <;> exact htally.symm
  have hsteps : eventCount i + transferCount i = (if settle then 1 else 0) + 36 * writes.length := by omega
  obtain ⟨a, t, ha, hrun, hp, hbus⟩ := run_operation settle h hi hs hes
  obtain ⟨hc, -, -, hl⟩ := h
  have hlead : eventsOf (if settle then settleSeq else []) = if settle then [.wait 2000] else [] := by
    cases settle <;> rfl
  exact ⟨a, t, ha, hsteps ▸ hrun, operationDone_of_busRun hc hl hp hes hw (hlead ▸ hbus)⟩

theorem runsToCompletion_initializeDisplay {s : State} (h : Ready s) : RunsToCompletion .initializeDisplay s := by
  obtain ⟨a, t, ha, hrun, hp, hbus⟩ := run_initializeDisplay h
  obtain ⟨hc, -, -, hl⟩ := h
  exact ⟨a, t, ha, hrun, operationDone_of_busRun (s := beginInit s) (lead := initSettleSeq) hc hl hp
    (entriesOf_initializeDisplay s.mirrored) rfl hbus⟩

theorem runsToCompletion_transmit {s : State} (b : Byte) (h : Ready s) : RunsToCompletion (.transmit b) s := by
  obtain ⟨a, ha, hrun⟩ := run_transmit b h
  obtain ⟨hc, -, hp, -, -, hen, hrw⟩ := h
  exact ⟨a, _, ha, hrun, rfl, rfl, rfl, hc, ⟨rfl, rfl, hen, hrw⟩, hp, rfl, rfl⟩

theorem runsToCompletion_pulseEnable {s : State} (h : Ready s) : RunsToCompletion .pulseEnable s := by
  obtain ⟨l, d, hexec, hrun⟩ := run_pulseEnable h
  have hl : l.pending = none := by
    have hstep := hexec { s with lcd := { s.lcd with pending := some (presented s) } } rfl rfl
    obtain ⟨-, -, -, hl⟩ | ⟨hp, -⟩ | ⟨hp, -⟩ | ⟨hp, -⟩ := step_next_cases hstep
    · exact hl
    all_goals cases hp
  have hx := exec_ready h (i := .pulseEnable) rfl rfl
  obtain ⟨hc, -, -, hrest⟩ := h
  exact ⟨_, _, hx, hrun, rfl, rfl, rfl, hc, hrest, hl, rfl, List.length_append⟩

/-- `SETUP` leaves no transfer pending, since none of its entries lets the controller take one. -/
theorem pending_of_run_setupEntries {es : List SeqEntry} {s t : State} (hp : s.lcd.pending = none) (hq : s.seq = es)
    (hb : s.busy = !es.isEmpty) (h : ∀ e ∈ es, setupEntry e = true) (hrun : runSteps es.length s = .next t) :
    t.lcd.pending = none := by
  induction es generalizing s with
  | nil => cases hrun; exact hp
  | cons e rest ih =>
    obtain ⟨he, hrest⟩ := List.forall_mem_cons.1 h
    obtain ⟨u, hstep, -, hpu, hqu, hbu, -⟩ := step_setupEntry hp hb hq he
    rw [List.length_cons, runSteps_succ hstep] at hrun
    exact ih hpu hqu hbu hrest hrun

theorem runsToCompletion_setup {s : State} (pins : PerRole PinId) (m : Bool) (h : Ready s) :
    RunsToCompletion (.setup pins m) s := by
  obtain ⟨-, hb, hp, -⟩ := h
  have hentries := setupSeq_setupEntry pins Config.logicalDefault
  have hpa : (accept (.setup pins m) (setupSeq pins Config.logicalDefault) (bindHandle pins m s)).lcd.pending = none := hp
  obtain ⟨t, hrun, hprog, hbt, hqt, hot⟩ := run_setupEntries _ hpa rfl rfl nofun hentries
  have hpt := pending_of_run_setupEntries hpa rfl rfl hentries hrun
  have hline : t.line = ⟨true, true, false, false, false, false⟩ :=
    hprog.line [] _ (by rw [List.append_nil]; exact setupSeq_leadsTo _ _ _)
  have hconf : t.configured = true := by rw [hprog.configured]; exact Bool.or_true _
  have hrest : restLevels t.line := by rw [hline]; exact ⟨rfl, rfl, rfl, rfl⟩
  exact ⟨_, t, exec_setup_idle pins m hb, hrun, hbt, hqt, hot, hconf, hrest, hpt, hprog.trace,
    congrArg List.length hprog.received⟩

/-- Every operation, by the run of its own kind. -/
theorem runsToCompletion {i : Instr} {s : State} (hi : isOperation i = true) (h : Ready s) : RunsToCompletion i s := by
  cases i with
  | setup pins m => exact runsToCompletion_setup pins m h
  | transmit b => exact runsToCompletion_transmit b h
  | pulseEnable => exact runsToCompletion_pulseEnable h
  | initializeDisplay => exact runsToCompletion_initializeDisplay h
  | writeCommand b => exact runsToCompletion_of_writes (writes := [(Config.rsCmd, b)]) false h rfl rfl rfl rfl
  | writeData b => exact runsToCompletion_of_writes (writes := [(Config.rsData, b)]) false h rfl rfl rfl rfl
  | setDdramAddr addr =>
    exact runsToCompletion_of_writes (writes := [(Config.rsCmd, ddramCommand addr)]) false h rfl rfl rfl rfl
  | setCgramAddr addr =>
    exact runsToCompletion_of_writes (writes := [(Config.rsCmd, cgramCommand addr)]) false h rfl rfl rfl rfl
  | goto column row =>
    exact runsToCompletion_of_writes (writes := [(Config.rsCmd, ddramCommand (gotoAddress column row))]) true h rfl rfl
      rfl rfl
  | clearDisplay => exact runsToCompletion_of_writes true h rfl rfl (entriesOf_clearDisplay _) rfl
  | createCustomChar slot glyph =>
    exact runsToCompletion_of_writes (writes := glyphWrites slot glyph) false h rfl rfl
      (entriesOf_createCustomChar _ slot glyph) rfl
  | drawStr text => exact runsToCompletion_of_writes false h rfl rfl (entriesOf_drawStr _ text) (List.length_map _)
  | _ => cases hi

/-- Settles O7: `runsToCompletion`, with the number of events from the table. -/
theorem operationRunsToCompletion : Obligations.OperationRunsToCompletion := by
  intro i s hi h
  obtain ⟨a, t, ha, hrun, hbusy, hseq, hoper, hconf, hrest, hp, htrace, hrec⟩ := runsToCompletion hi h
  exact ⟨a, t, ha, hrun, hbusy, hseq, hoper, hconf, hrest, hp, htrace, (tally_entriesOf s.mirrored hi).events, hrec⟩

/-! ### The controller before `INITIALIZE_DISPLAY` (R172, R180) -/

/-- Settles O46: commands and pending transfers alike are run by `controllerRuns`, which before `INITIALIZE_DISPLAY` leaves the
same controller whatever the effect, with no transfer in its latch. -/
theorem controllerUnknownBeforeInitialize : Obligations.ControllerUnknownBeforeInitialize := by
  refine fun s hs => ⟨fun i hi => ?_, fun tr hp => ?_⟩
  · obtain ⟨f, -, hexec⟩ := exec_command hi
    rw [hexec, controllerRuns_before f hs]
  · obtain ⟨f, -, hstep⟩ := step_transfer tr
    rw [hstep s hp, controllerRuns_before f (s := clearPending s) hs]
    rfl

end Sys2Proof.Machine
